-- ==== Sys2Proof/Word.lean ====
section
/-! DEFINITION. The word types of the block (00_scope.md R8, R9): 32-bit registers, bytes, and the 64-bit
encoding of a binary64 value. -/

namespace Sys2Proof

/-- A host register, command word, tuning word, length or mask operand (R8, R91). -/
abbrev Word := BitVec 32

/-- One byte lane of the host bus (R64). -/
abbrev Byte := BitVec 8

/-- A binary64 value, held as `f64bits(x)`, its IEEE 754 encoding (R8, R10). -/
abbrev F64 := BitVec 64

/-- A host byte address (R8, R61). -/
abbrev Addr := BitVec 16

end Sys2Proof
end

