-- ==== Sys2Proof/Syntax.lean ====
section
/-! DEFINITION. The 29 commands of 30_encoding.md R96, one constructor per row of spec/opcode_table.json. -/

namespace Sys2Proof

/-- A command with the fields its row of R96 gives it: `k` is the slot field `K` (bits 11:8) and `sub` the
sub-operand field `S` (bits 15:12), both as the word holds them, so that the values R94 rejects are
terms too (the command's meaning raises the error). The 32-bit and 64-bit operands are not part of a
command: they stand in ARG0 and ARG1 (R92). -/
inductive Instr where
  | nop
  | clearErr
  | softReset
  | setIrqEn (sub : BitVec 4)
  | setMaxv
  | setSeed
  | setWave (k sub : BitVec 4)
  | setFreq (k : BitVec 4)
  | setRatio (k : BitVec 4)
  | setAmp (k : BitVec 4)
  | setFixed (k sub : BitVec 4)
  | setDisabled (k sub : BitVec 4)
  | setPresent (k sub : BitVec 4)
  | setTargets (k : BitVec 4)
  | setAttack (k : BitVec 4)
  | setDecay (k : BitVec 4)
  | setSustain (k : BitVec 4)
  | setRelease (k : BitVec 4)
  | setAtarget (k : BitVec 4)
  | setDrtarget (k : BitVec 4)
  | applyPreset (sub : BitVec 4)
  | setAmEnable (sub : BitVec 4)
  | setAmWave (sub : BitVec 4)
  | setAmFreq
  | setAmAmp
  | setPass (sub : BitVec 4)
  | noteOn
  | noteOff
  | pull
  deriving DecidableEq, Repr

end Sys2Proof
end

