-- ==== Sys2Proof/Decode.lean ====
section
/-! DEFINITION. Decoding of a 32-bit command word (30_encoding.md R91 to R97), total, refusing by name; and
after it the encoder (R91, R101) and the table word of the host's question. -/

namespace Sys2Proof

/-- Why the decoder names no row of R96 (R94, R95): the word itself already raises this error. -/
inductive DecodeError where
  /-- `OP` is not in R96. -/
  | illegalOpcode
  /-- RSV is not 0, or a field the command does not use is not 0. -/
  | reservedField
  deriving DecidableEq, Repr

/-- One row of the opcode map R96. -/
structure OpcodeRow where
  op : Byte
  usesK : Bool
  usesS : Bool
  build : BitVec 4 → BitVec 4 → Instr

/-- System commands of R96 (OP 0x00 to 0x05). -/
def systemRows : List OpcodeRow :=
  [ ⟨0x00#8, false, false, fun _ _ => .nop⟩,
    ⟨0x01#8, false, false, fun _ _ => .clearErr⟩,
    ⟨0x02#8, false, false, fun _ _ => .softReset⟩,
    ⟨0x03#8, false, true, fun _ sub => .setIrqEn sub⟩,
    ⟨0x04#8, false, false, fun _ _ => .setMaxv⟩,
    ⟨0x05#8, false, false, fun _ _ => .setSeed⟩ ]

/-- Slot commands of R96 (OP 0x10 to 0x1D). -/
def slotRows : List OpcodeRow :=
  [ ⟨0x10#8, true, true, fun k sub => .setWave k sub⟩,
    ⟨0x11#8, true, false, fun k _ => .setFreq k⟩,
    ⟨0x12#8, true, false, fun k _ => .setRatio k⟩,
    ⟨0x13#8, true, false, fun k _ => .setAmp k⟩,
    ⟨0x14#8, true, true, fun k sub => .setFixed k sub⟩,
    ⟨0x15#8, true, true, fun k sub => .setDisabled k sub⟩,
    ⟨0x16#8, true, true, fun k sub => .setPresent k sub⟩,
    ⟨0x17#8, true, false, fun k _ => .setTargets k⟩,
    ⟨0x18#8, true, false, fun k _ => .setAttack k⟩,
    ⟨0x19#8, true, false, fun k _ => .setDecay k⟩,
    ⟨0x1A#8, true, false, fun k _ => .setSustain k⟩,
    ⟨0x1B#8, true, false, fun k _ => .setRelease k⟩,
    ⟨0x1C#8, true, false, fun k _ => .setAtarget k⟩,
    ⟨0x1D#8, true, false, fun k _ => .setDrtarget k⟩ ]

/-- The other commands of R96 (OP 0x20 to 0x50). -/
def voiceRows : List OpcodeRow :=
  [ ⟨0x20#8, false, true, fun _ sub => .applyPreset sub⟩,
    ⟨0x30#8, false, true, fun _ sub => .setAmEnable sub⟩,
    ⟨0x31#8, false, true, fun _ sub => .setAmWave sub⟩,
    ⟨0x32#8, false, false, fun _ _ => .setAmFreq⟩,
    ⟨0x33#8, false, false, fun _ _ => .setAmAmp⟩,
    ⟨0x38#8, false, true, fun _ sub => .setPass sub⟩,
    ⟨0x40#8, false, false, fun _ _ => .noteOn⟩,
    ⟨0x41#8, false, false, fun _ _ => .noteOff⟩,
    ⟨0x50#8, false, false, fun _ _ => .pull⟩ ]

/-- The opcode map R96, all 29 rows. -/
def opcodeMap : List OpcodeRow := systemRows ++ slotRows ++ voiceRows

/-- `OP`, bits 7:0 (R91). -/
def opField (w : Word) : Byte := w.extractLsb' 0 8
/-- `K`, bits 11:8 (R91). -/
def kField (w : Word) : BitVec 4 := w.extractLsb' 8 4
/-- `S`, bits 15:12 (R91). -/
def sField (w : Word) : BitVec 4 := w.extractLsb' 12 4
/-- `RSV`, bits 31:16 (R91). -/
def rsvField (w : Word) : BitVec 16 := w.extractLsb' 16 16

/-- Decoding a word (R97): the opcode first, then RSV and the fields the command does not use (R94). The
range of a field the command DOES use is checked by the command's meaning, in the same order (R273). -/
def decode (w : Word) : Except DecodeError Instr :=
  match opcodeMap.find? (fun r => r.op == opField w) with
  | none => .error .illegalOpcode
  | some r =>
    if rsvField w ≠ 0#16 then .error .reservedField
    else if r.usesK = false ∧ kField w ≠ 0#4 then .error .reservedField
    else if r.usesS = false ∧ sField w ≠ 0#4 then .error .reservedField
    else .ok (r.build (kField w) (sField w))

/-- `{16'h0000, S, K, OP}` (R101). -/
def commandWord (op : Byte) (k sub : BitVec 4) : Word := 0#16 ++ sub ++ k ++ op

/-- The word that names a command (R91, R96, R101). -/
def encode : Instr → Word
  | .nop => commandWord 0x00#8 0#4 0#4
  | .clearErr => commandWord 0x01#8 0#4 0#4
  | .softReset => commandWord 0x02#8 0#4 0#4
  | .setIrqEn sub => commandWord 0x03#8 0#4 sub
  | .setMaxv => commandWord 0x04#8 0#4 0#4
  | .setSeed => commandWord 0x05#8 0#4 0#4
  | .setWave k sub => commandWord 0x10#8 k sub
  | .setFreq k => commandWord 0x11#8 k 0#4
  | .setRatio k => commandWord 0x12#8 k 0#4
  | .setAmp k => commandWord 0x13#8 k 0#4
  | .setFixed k sub => commandWord 0x14#8 k sub
  | .setDisabled k sub => commandWord 0x15#8 k sub
  | .setPresent k sub => commandWord 0x16#8 k sub
  | .setTargets k => commandWord 0x17#8 k 0#4
  | .setAttack k => commandWord 0x18#8 k 0#4
  | .setDecay k => commandWord 0x19#8 k 0#4
  | .setSustain k => commandWord 0x1A#8 k 0#4
  | .setRelease k => commandWord 0x1B#8 k 0#4
  | .setAtarget k => commandWord 0x1C#8 k 0#4
  | .setDrtarget k => commandWord 0x1D#8 k 0#4
  | .applyPreset sub => commandWord 0x20#8 0#4 sub
  | .setAmEnable sub => commandWord 0x30#8 0#4 sub
  | .setAmWave sub => commandWord 0x31#8 0#4 sub
  | .setAmFreq => commandWord 0x32#8 0#4 0#4
  | .setAmAmp => commandWord 0x33#8 0#4 0#4
  | .setPass sub => commandWord 0x38#8 0#4 sub
  | .noteOn => commandWord 0x40#8 0#4 0#4
  | .noteOff => commandWord 0x41#8 0#4 0#4
  | .pull => commandWord 0x50#8 0#4 0#4

/-- The four byte lanes of a word, lane 0 (bits 7:0) first (R64). -/
def laneBytes (w : Word) : List Byte :=
  [w.extractLsb' 0 8, w.extractLsb' 8 8, w.extractLsb' 16 8, w.extractLsb' 24 8]

/-- The word carried by a list of byte lanes, lane 0 first (R64); lanes past the fourth do not exist. -/
def wordOfLanes : List Byte → Word
  | [] => 0#32
  | b :: rest => (wordOfLanes rest) <<< 8 ||| b.setWidth 32

/-- The command the decoder reads from a table row's bits: they are laid on the byte lanes as CMD takes
them (R64, R91), bits above `nbits` being 0. -/
def decodeTableWord (nbits w : Nat) : Option Instr :=
  match decode (wordOfLanes (laneBytes (BitVec.ofNat 32 (w % 2 ^ nbits)))) with
  | .ok i => some i
  | .error _ => none

end Sys2Proof
end

