-- ==== Sys2Proof/Config.lean ====
section
/-! DEFINITION. What a build fixes (00_scope.md R7): the parameters N, VMAX and FADE_LEN as a record of plain
data, and the functions FN_* and the bits of a NaN result as constants without a body. -/

namespace Sys2Proof

/-- The size parameters of one build (R7, 93_implementation_defined.md P1 to P3). -/
structure Build where
  /-- `N`, samples per block, 1..4096. -/
  blockLen : Nat
  /-- `VMAX`, number of voice slots, 1..255. -/
  vmax : Nat
  /-- `FADE_LEN`, anti-click fade length in samples, 0..65535. -/
  fadeLen : BitVec 16
  deriving DecidableEq, Repr

/-- The legal ranges of R7 (every 16-bit FADE_LEN is legal). -/
abbrev Build.Legal (b : Build) : Prop :=
  (1 ≤ b.blockLen ∧ b.blockLen ≤ 4096) ∧ (1 ≤ b.vmax ∧ b.vmax ≤ 255)

/-- The build `State.reset` is stated for: N = 4, VMAX = 4, FADE_LEN = 0, the parameters of
95_test_vectors.md "Conventions". DESIGN CHOICE (assumption 1): R7 leaves the parameters open. -/
def Config.build : Build := ⟨4, 4, 0#16⟩

/-- `FN_SIN` of R7: any deterministic total function (92_eei_decisions.md D3). -/
opaque Config.fnSin : F64 → F64
/-- `FN_COS` of R7. -/
opaque Config.fnCos : F64 → F64
/-- `FN_EXP` of R7. -/
opaque Config.fnExp : F64 → F64
/-- `FN_LN` of R7. -/
opaque Config.fnLn : F64 → F64
/-- `FN_TAN` of R7. -/
opaque Config.fnTan : F64 → F64

/-- The four binary64 operations of R10. -/
inductive ArithOp where
  | add | sub | mul | div
  deriving DecidableEq, Repr

/-- FREE VALUE (assumption 3): sign (bit 52) and fraction (bits 51:0) of the NaN that an operation delivers.
R10 and R280 say that a NaN propagates and leave its bits open. -/
opaque Config.nanBits : ArithOp → F64 → F64 → BitVec 53

/-- FREE VALUE (assumption 4): the bits that field number `field` of a voice slot holds once the voice with sequence
number `seq` has left it (R45, "their values are unspecified until the next NOTE_ON that allocates the slot"). -/
opaque Config.staleBits (seq : BitVec 64) (field : Nat) : BitVec 64

end Sys2Proof
end

