-- ==== Sys2Proof/Machine/Float64.lean ====
section
/-! DEFINITION. Binary64 arithmetic (00_scope.md R10, 92_eei_decisions.md D2): every operation is computed
exactly and rounded once, to nearest with ties to even. A finite value is a whole multiple of 2^-1074, so
exact results are integers or quotients of integers in that unit. -/

namespace Sys2Proof.Machine

/-- `+0.0`. -/
def fZero : F64 := 0x0000000000000000#64
/-- `-0.0`. -/
def fNegZero : F64 := 0x8000000000000000#64
/-- `1.0`. -/
def fOne : F64 := 0x3FF0000000000000#64
/-- `-1.0`. -/
def fMinusOne : F64 := 0xBFF0000000000000#64
/-- MAXFINITE, the largest finite binary64 (R189). -/
def fMaxFinite : F64 := 0x7FEFFFFFFFFFFFFF#64
/-- `2^-32` (R10). -/
def fTwoPowMinus32 : F64 := 0x3DF0000000000000#64
/-- `2^-31` (R10). -/
def fTwoPowMinus31 : F64 := 0x3E00000000000000#64
/-- `TWO_PI` of R114. -/
def fTwoPi : F64 := 0x401921FB54442D18#64
/-- `PI` of R150. -/
def fPi : F64 := 0x400921FB54442D18#64

/-- Sign bit set. -/
def fSign (x : F64) : Bool := x.getLsbD 63
/-- Biased exponent field. -/
def fExpField (x : F64) : Nat := x.toNat / 2 ^ 52 % 2 ^ 11
/-- Fraction field. -/
def fFracField (x : F64) : Nat := x.toNat % 2 ^ 52
/-- The encoding without its sign: on non-NaN values it grows with the magnitude. -/
def fMagField (x : F64) : Nat := x.toNat % 2 ^ 63

def fIsNaN (x : F64) : Bool := fExpField x == 2047 && fFracField x != 0
def fIsInf (x : F64) : Bool := fExpField x == 2047 && fFracField x == 0
def fIsZero (x : F64) : Bool := fMagField x == 0
def fIsFinite (x : F64) : Bool := fExpField x != 2047

/-- Magnitude of a finite value in units of 2^-1074. -/
def fMag (x : F64) : Nat :=
  if fExpField x = 0 then fFracField x else (2 ^ 52 + fFracField x) * 2 ^ (fExpField x - 1)

/-- A finite value in units of 2^-1074. -/
def fInt (x : F64) : Int := if fSign x then -(fMag x : Int) else (fMag x : Int)

/-- Quotient rounded to nearest, ties to even. -/
def divRoundEven (num den : Nat) : Nat :=
  let q := num / den
  let r := num % den
  if 2 * r < den then q else if den < 2 * r then q + 1 else q + q % 2

/-- How many low bits of a magnitude with whole part `q` (units of 2^-1074) fall below a 53-bit significand. -/
def roundShift (q : Nat) : Nat := if q < 2 ^ 53 then 0 else Nat.log2 q - 52

/-- Encoding (without sign) of the magnitude `num/den` (units of 2^-1074) rounded to nearest, ties to even;
a magnitude that rounds past the largest finite value gives infinity. -/
def roundMag (num den : Nat) : Nat :=
  let sh := roundShift (num / den)
  min (sh * 2 ^ 52 + divRoundEven num (den * 2 ^ sh)) (2047 * 2 ^ 52)

/-- A sign and an encoding without sign put together. -/
def fPack (neg : Bool) (mag : Nat) : F64 := BitVec.ofNat 64 ((if neg then 2 ^ 63 else 0) + mag)

/-- Infinity of a given sign. -/
def fInf (neg : Bool) : F64 := fPack neg (2047 * 2 ^ 52)

/-- The NaN an operation delivers: sign and fraction are a free value (assumption 3), the fraction not 0. -/
def fNaN (op : ArithOp) (x y : F64) : F64 :=
  let bits := Config.nanBits op x y
  let frac : BitVec 52 := bits.setWidth 52
  (if bits.getLsbD 52 then 1#1 else 0#1) ++ 0x7FF#11 ++ (if frac = 0#52 then 1#52 else frac)

/-- Negation: the sign bit alone changes (R150, `-B0`). -/
def fNeg (x : F64) : F64 := x ^^^ 0x8000000000000000#64

/-- Exact signed sum, rounded once; an exact zero sum is `-0.0` only when both terms are negative. -/
def roundSum (x y : F64) : F64 :=
  let v := fInt x + fInt y
  if v = 0 then (if fSign x && fSign y then fNegZero else fZero)
  else fPack (decide (v < 0)) (roundMag v.natAbs 1)

/-- Sum of operands that are not NaN; `op` names the operation of R10 for a NaN result. -/
def addCore (op : ArithOp) (x y : F64) : F64 :=
  if fIsInf x then (if fIsInf y && fSign x != fSign y then fNaN op x y else x)
  else if fIsInf y then y
  else roundSum x y

/-- `x + y`. -/
def fAdd (x y : F64) : F64 :=
  if fIsNaN x || fIsNaN y then fNaN .add x y else addCore .add x y

/-- `x - y`. -/
def fSub (x y : F64) : F64 :=
  if fIsNaN x || fIsNaN y then fNaN .sub x y else addCore .sub x (fNeg y)

/-- `x * y`. -/
def fMul (x y : F64) : F64 :=
  let neg := fSign x != fSign y
  if fIsNaN x || fIsNaN y then fNaN .mul x y
  else if fIsInf x || fIsInf y then (if fIsZero x || fIsZero y then fNaN .mul x y else fInf neg)
  else fPack neg (roundMag (fMag x * fMag y) (2 ^ 1074))

/-- `x / y`. -/
def fDiv (x y : F64) : F64 :=
  let neg := fSign x != fSign y
  if fIsNaN x || fIsNaN y then fNaN .div x y
  else if fIsInf x then (if fIsInf y then fNaN .div x y else fInf neg)
  else if fIsInf y then fPack neg 0
  else if fIsZero y then (if fIsZero x then fNaN .div x y else fInf neg)
  else fPack neg (roundMag (fMag x * 2 ^ 1074) (fMag y))

/-- Order key of a value that is not NaN; both zeros have key 0. -/
def fKey (x : F64) : Int := if fSign x then -(fMagField x : Int) else (fMagField x : Int)

/-- `x < y` (IEEE comparison: false when either is NaN). -/
def fLt (x y : F64) : Bool := !fIsNaN x && !fIsNaN y && decide (fKey x < fKey y)
/-- `x <= y`. -/
def fLe (x y : F64) : Bool := !fIsNaN x && !fIsNaN y && decide (fKey x ≤ fKey y)
/-- `x == y`. -/
def fEq (x y : F64) : Bool := !fIsNaN x && !fIsNaN y && decide (fKey x = fKey y)

/-- `f64(u)`, the value of an unsigned integer (R10). -/
def fOfNat (u : Nat) : F64 := fPack false (roundMag (u * 2 ^ 1074) 1)

/-- `f64(u)` of a word. -/
def fOfWord (u : Word) : F64 := fOfNat u.toNat

/-- "value in [0.0, 1.0]", false on NaN (60_exceptions.md R272). -/
def inUnitRange (x : F64) : Bool := fLe fZero x && fLe x fOne

/-- "finite and > 0.0", false on NaN (R189, R190, R272). -/
def isPositiveFinite (x : F64) : Bool := fLt fZero x && fLe x fMaxFinite

end Sys2Proof.Machine
end

