-- ==== Sys2Proof/Machine/State.lean ====
section
/-! DEFINITION. The state of the block as plain data (10_state.md R22): host-visible registers, global
configuration, voice table, OUT, VSEQ and BLOCKCOUNT; beside them the model's own fields: the build
parameters, the host accesses still to come, and the answer to the last one. -/

namespace Sys2Proof.Machine

/-- The four oscillator slots A..D (R2, R37). -/
inductive Slot where
  | A | B | C | D
  deriving DecidableEq, Repr

/-- Slot number 0..3 (R2). -/
def Slot.index : Slot → Nat
  | .A => 0 | .B => 1 | .C => 2 | .D => 3

/-- All slots in increasing slot order. -/
def Slot.all : List Slot := [.A, .B, .C, .D]

/-- One value per oscillator slot. -/
structure Quad (α : Type) where
  a : α
  b : α
  c : α
  d : α
  deriving DecidableEq, Repr

def Quad.get {α : Type} (q : Quad α) : Slot → α
  | .A => q.a | .B => q.b | .C => q.c | .D => q.d

def Quad.set {α : Type} (q : Quad α) (k : Slot) (x : α) : Quad α :=
  match k with
  | .A => { q with a := x }
  | .B => { q with b := x }
  | .C => { q with c := x }
  | .D => { q with d := x }

def Quad.ofFn {α : Type} (f : Slot → α) : Quad α := ⟨f .A, f .B, f .C, f .D⟩

/-- Waveform codes of R37 and R38: 0 sine, 1 square, 2 noise. -/
inductive Waveform where
  | sine | square | noise
  deriving DecidableEq, Repr

/-- Pass-filter types of R39: 0 none, 1 low-pass, 2 high-pass. -/
inductive FilterType where
  | none | low | high
  deriving DecidableEq, Repr

/-- Envelope stages of R46, in the order of their codes 0..4. -/
inductive Stage where
  | attack | decay | sustain | release | idle
  deriving DecidableEq, Repr

/-- Oscillator slot template `T[k]` (R37). -/
structure Template where
  wave : Waveform
  freq : Word
  ratio : Word
  amp : F64
  fixed : Bool
  disabled : Bool
  present : Bool
  targets : BitVec 4
  att : Word
  dec : Word
  sus : F64
  rel : Word
  atgt : F64
  drtgt : F64
  deriving DecidableEq, Repr

/-- Tremolo configuration (R38). -/
structure Tremolo where
  en : Bool
  wave : Waveform
  freq : Word
  amp : F64
  deriving DecidableEq, Repr

/-- Pass-filter configuration (R39). -/
structure PassFilter where
  type : FilterType
  cutoff : Word
  b0 : F64
  b1 : F64
  a1 : F64
  deriving DecidableEq, Repr

/-- Per-voice state of one slot oscillator, `V[v].s[k]` (R44). -/
structure OscState where
  ph : Word
  est : Stage
  env : F64
  nz : Word
  deriving DecidableEq, Repr

/-- One voice slot `V[v]` (R44): an active voice when `valid = 1`. The other fields of a slot with `valid = 0` are not
observable (R45). -/
structure Voice where
  valid : Bool
  seq : BitVec 64
  note : Word
  osc : Quad OscState
  amPh : Word
  amNz : Word
  z : F64
  fade : BitVec 16
  deriving DecidableEq, Repr

/-- One host access on the bus, or a pulse of the reset input between two accesses (R61, R297). The size is
in bytes; a write carries the 32 data bits of the one size that is defined (R63). -/
inductive BusEvent where
  | read (addr : Addr) (size : Nat)
  | write (addr : Addr) (size : Nat) (data : Word)
  | rst
  deriving DecidableEq, Repr

/-- What the bus answered to the last access (model's own field, assumption 2). -/
inductive BusResponse where
  /-- No access has been answered since reset. -/
  | quiet
  /-- A read returned this word. -/
  | readData (v : Word)
  /-- A write completed. -/
  | writeDone
  deriving DecidableEq, Repr

/-- The state of the block. -/
structure State where
  /-- Model's own field: the parameters N, VMAX, FADE_LEN of R7; no step changes them (assumption 1). -/
  build : Build
  /-- STATUS.ERR (R27). -/
  err : Bool
  /-- STATUS.ERR_OVF (R27). -/
  errOvf : Bool
  /-- ERRCODE bits 7:0 (R30). -/
  errCode : BitVec 8
  /-- ERRCMD (R31). -/
  errCmd : Word
  /-- ARG0 (R29). -/
  arg0 : Word
  /-- ARG1 (R29). -/
  arg1 : Word
  /-- BLOCKCOUNT (R33). -/
  blockCount : Word
  /-- Oscillator slot templates `T[0..3]` (R37). -/
  templates : Quad Template
  /-- Tremolo configuration (R38). -/
  tremolo : Tremolo
  /-- Pass-filter configuration (R39). -/
  pass : PassFilter
  /-- MAXV (R42). -/
  maxv : BitVec 8
  /-- NOISE_SEED (R42). -/
  noiseSeed : Word
  /-- IRQ_EN (R42). -/
  irqEn : Bool
  /-- Voice table `V[0..VMAX-1]` (R43). -/
  voices : List Voice
  /-- OUT[0..N-1] (R49). -/
  out : List F64
  /-- VSEQ (R50). -/
  vseq : BitVec 64
  /-- Model's own field: the host accesses still to come, in the bus's total order R71 (assumption 2). -/
  bus : List BusEvent
  /-- Model's own field: the answer to the last access (assumption 2). -/
  resp : BusResponse
  deriving DecidableEq, Repr

/-- The error causes of R271 (code 0, NONE, is the absence of one). -/
inductive ErrCode where
  | illegalOpcode | reservedField | badSlot | badValue | routingCycle
  deriving DecidableEq, Repr

/-- Reasons the machine stops with a fault. Both are raised only in states no run reaches. -/
inductive Fault where
  /-- Raised by NOTE_ON when no voice slot is free after eviction, which R227 says cannot be ("exists:
  count < MAXV <= VMAX"). Safe: the machine stops and nothing is proved of a next state. -/
  | noFreeVoiceSlot
  /-- Raised by PULL when the present slots form a cycle, which R204 says cannot be ("acyclic at every
  PULL"). Safe: the machine stops and nothing is proved of a next state. -/
  | cyclicRouting
  deriving DecidableEq, Repr

/-- Reasons a step is refused. -/
inductive Refusal where
  /-- An instruction that has no meaning in the model yet (raised by exec's arm only). Safe. -/
  | notModelled (mnemonic : String)
  /-- Raised by a bus access of another size than 4 bytes or at a misaligned address: "a refused step (the
  model has no transition for it ...)" (R63, R289). Safe. -/
  | busError
  /-- Raised by NOTE_ON when VSEQ is 2^64 - 1 (R289, 92_eei_decisions.md D44,
  93_implementation_defined.md S3). Safe. -/
  | vseqExhausted
  deriving DecidableEq, Repr

/-- Reset value of every `T[k]` (R37). -/
def Template.reset : Template where
  wave := .sine
  freq := 0#32
  ratio := 0x00010000#32
  amp := fOne
  fixed := false
  disabled := false
  present := false
  targets := 0#4
  att := 0#32
  dec := 0#32
  sus := fOne
  rel := 0#32
  atgt := 0x3FD3333333333333#64
  drtgt := 0x3F1A36E2EB1C432D#64

/-- Reset value of the tremolo configuration (R38). -/
def Tremolo.reset : Tremolo := ⟨false, .sine, 0#32, fZero⟩

/-- Reset value of the pass-filter configuration (R39). -/
def PassFilter.reset : PassFilter := ⟨.none, 0x40000000#32, fZero, fZero, fZero⟩

/-- Reset value of a voice slot: invalid, every other field 0 (+0.0), stage 0 being ATTACK (R45, R46). -/
def Voice.reset : Voice where
  valid := false
  seq := 0#64
  note := 0#32
  osc := Quad.ofFn fun _ => ⟨0#32, .attack, fZero, 0#32⟩
  amPh := 0#32
  amNz := 0#32
  z := fZero
  fade := 0#16

/-- The reset state of a block of a given build (R53, R298), with no host access to come. -/
def State.resetFor (b : Build) : State where
  build := b
  err := false
  errOvf := false
  errCode := 0#8
  errCmd := 0#32
  arg0 := 0#32
  arg1 := 0#32
  blockCount := 0#32
  templates := Quad.ofFn fun _ => Template.reset
  tremolo := Tremolo.reset
  pass := PassFilter.reset
  maxv := BitVec.ofNat 8 b.vmax
  noiseSeed := 0x2545F491#32
  irqEn := false
  voices := List.replicate b.vmax Voice.reset
  out := List.replicate b.blockLen fZero
  vseq := 0#64
  bus := []
  resp := .quiet

/-- The machine right after reset, for the build of `Config.build` (R53, R296). -/
def State.reset : State := State.resetFor Config.build

end Sys2Proof.Machine
end

