-- ==== Sys2Proof/Machine/Flags.lean ====
section
/-! DEFINITION. The status flags and the STATUS word (10_state.md R25, R27; 60_exceptions.md R276). -/

namespace Sys2Proof.Machine

/-- The valid voices, in voice-slot order (R43). -/
def validVoices (vs : List Voice) : List Voice := vs.filter (·.valid)

/-- "count(valid voices)" (R227), STATUS.NVOICES (R27). -/
def voiceCount (vs : List Voice) : Nat := (validVoices vs).length

/-- The level of the `irq` output, `STATUS.ERR and IRQ_EN` (R276). -/
def State.irq (s : State) : Bool := s.err && s.irqEn

/-- One bit as a word of width 1. -/
def flagBit (b : Bool) : BitVec 1 := if b then 1#1 else 0#1

/-- The STATUS word (R27): bits 31:16 and 7:4 read 0. -/
def statusWord (s : State) : Word :=
  0#16 ++ BitVec.ofNat 8 (voiceCount s.voices) ++ 0#4 ++ flagBit s.irq ++ flagBit s.irqEn ++
    flagBit s.errOvf ++ flagBit s.err

end Sys2Proof.Machine
end

