-- ==== Sys2Proof/Machine/Ops.lean ====
section
/-! DEFINITION. Shared operations: the error procedure and the return from it (60_exceptions.md R274, R277),
how a command ends, reset (70_reset_and_hazards.md R297), template updates, and reads and writes of the
host register window (20_memory.md R63 to R68). -/

namespace Sys2Proof.Machine

/-- What a meaning answers. -/
abbrev Result := Host.Outcome State Fault Refusal

/-- The code recorded in ERRCODE (R271). -/
def errorNumber : ErrCode → BitVec 8
  | .illegalOpcode => 1#8
  | .reservedField => 2#8
  | .badSlot => 3#8
  | .badValue => 4#8
  | .routingCycle => 5#8

/-- `raise Error(code)` during the command whose word is `w` (R274, R278): the first error is recorded, a later
one only sets ERR_OVF, and nothing else changes. -/
def raiseError (code : ErrCode) (w : Word) (s : State) : State :=
  if s.err then { s with errOvf := true }
  else { s with err := true, errCode := errorNumber code, errCmd := w }

/-- The return from the error state (R258, R277). -/
def clearErrors (s : State) : State :=
  { s with err := false, errOvf := false, errCode := 0#8, errCmd := 0#32 }

/-- The end of command `i`: either its new state, or the error procedure with `i`'s word and no other change
(R274, R275). -/
def finish (i : Instr) (s : State) (r : Except ErrCode State) : Result :=
  match r with
  | .ok t => .next t
  | .error code => .next (raiseError code (encode i) s)

/-- A value check of a command's pseudocode: `if not ok then raise Error(code)`. -/
def require (ok : Bool) (code : ErrCode) : Except ErrCode Unit :=
  if ok then .ok () else .error code

/-- Every piece of the block's state takes its reset value in one step (R259, R297). The build parameters, the
host accesses still to come and the answer to the current access are not state of the block and stay. -/
def resetBlock (s : State) : State :=
  { State.resetFor s.build with bus := s.bus, resp := s.resp }

/-- One field of one template changes. -/
def updateTemplate (k : Slot) (f : Template → Template) (s : State) : State :=
  { s with templates := s.templates.set k (f (s.templates.get k)) }

/-- Low or high word of OUT[i] (R65, R67). -/
def outWord (s : State) (off : Nat) : Word :=
  let x := s.out.getD (off / 8) fZero
  if off % 8 = 0 then x.extractLsb' 0 32 else x.extractLsb' 32 32

/-- PARAM (R32). -/
def paramWord (b : Build) : Word :=
  0#4 ++ 4#4 ++ BitVec.ofNat 8 b.vmax ++ 0#3 ++ BitVec.ofNat 13 b.blockLen

/-- What an aligned 32-bit read returns (R66 to R68): a read changes nothing (R69). -/
def readWord (s : State) (a : Addr) : Word :=
  if a = 0x0000#16 then 0x50530007#32
  else if a = 0x0004#16 then statusWord s
  else if a = 0x0008#16 then s.errCode.setWidth 32
  else if a = 0x000C#16 then s.errCmd
  else if a = 0x0010#16 then 0#32
  else if a = 0x0014#16 then s.arg0
  else if a = 0x0018#16 then s.arg1
  else if a = 0x001C#16 then s.blockCount
  else if a = 0x0020#16 then paramWord s.build
  else if a = 0x0024#16 then s.build.fadeLen.setWidth 32
  else if a = 0x0028#16 then s.maxv.setWidth 32
  else if a = 0x002C#16 then s.noiseSeed
  else if 0x8000 ≤ a.toNat ∧ a.toNat < 0x8000 + 8 * s.build.blockLen then outWord s (a.toNat - 0x8000)
  else 0#32

/-- One byte of the register window: the lane of the register that holds it (R64). -/
def windowByte (s : State) (a : Addr) : Byte :=
  (readWord s (a &&& 0xFFFC#16)).extractLsb' (8 * (a.toNat % 4)) 8

/-- An aligned 32-bit write to any address but CMD: ARG0 and ARG1 store the value, every other write is ignored
(R29, R68, R69). -/
def writeRegister (s : State) (a : Addr) (v : Word) : State :=
  if a = 0x0014#16 then { s with arg0 := v }
  else if a = 0x0018#16 then { s with arg1 := v }
  else s

/-- The address of CMD (R66). -/
def cmdAddr : Addr := 0x0010#16

/-- "Only aligned 32-bit accesses are defined: addr[1:0] = 0, size 4 bytes" (R63). -/
def accessDefined (a : Addr) (size : Nat) : Bool := size == 4 && a.toNat % 4 == 0

end Sys2Proof.Machine
end

