-- ==== Sys2Proof/Machine/Operands.lean ====
section
/-! DEFINITION. Operand forms (30_encoding.md R92, R94, R98) and the checks each of them makes
(60_exceptions.md R272). -/

namespace Sys2Proof.Machine

/-- u32 operand: ARG0. -/
def operandU32 (s : State) : Word := s.arg0

/-- f64 operand: the encoding `{ARG1, ARG0}`, bit for bit. -/
def operandF64 (s : State) : F64 := s.arg1 ++ s.arg0

/-- mask operand: ARG0 bits 3:0, bits 31:4 must be 0 (BAD_VALUE). -/
def operandMask (s : State) : Except ErrCode (BitVec 4) :=
  if s.arg0.extractLsb' 4 28 = 0#28 then .ok (s.arg0.extractLsb' 0 4) else .error .badValue

/-- f64 operand in [0.0, 1.0] (BAD_VALUE otherwise, NaN included). -/
def operandUnit (s : State) : Except ErrCode F64 :=
  if inUnitRange (operandF64 s) then .ok (operandF64 s) else .error .badValue

/-- f64 operand finite and above 0.0 (BAD_VALUE otherwise). -/
def operandOffset (s : State) : Except ErrCode F64 :=
  if isPositiveFinite (operandF64 s) then .ok (operandF64 s) else .error .badValue

/-- Waveform codes (R37). -/
def waveCode : Waveform → BitVec 4
  | .sine => 0#4 | .square => 1#4 | .noise => 2#4

/-- Flag codes: OFF 0, ON 1 (R92). -/
def flagCode (b : Bool) : BitVec 4 := if b then 1#4 else 0#4

/-- Filter type codes (R39). -/
def filterCode : FilterType → BitVec 4
  | .none => 0#4 | .low => 1#4 | .high => 2#4

/-- Envelope stage codes (R46). -/
def stageCode : Stage → BitVec 3
  | .attack => 0#3 | .decay => 1#3 | .sustain => 2#3 | .release => 3#3 | .idle => 4#3

/-- Slot codes (R37). -/
def slotCode (j : Slot) : BitVec 4 := BitVec.ofNat 4 j.index

/-- Slot field: 0..3, else BAD_SLOT. -/
def slotOperand (k : BitVec 4) : Except ErrCode Slot :=
  match k.toNat with
  | 0 => .ok .A
  | 1 => .ok .B
  | 2 => .ok .C
  | 3 => .ok .D
  | _ => .error .badSlot

/-- Waveform in S: 0..2, else RESERVED_FIELD. -/
def waveOperand (sub : BitVec 4) : Except ErrCode Waveform :=
  match sub.toNat with
  | 0 => .ok .sine
  | 1 => .ok .square
  | 2 => .ok .noise
  | _ => .error .reservedField

/-- Flag in S: 0 or 1, else RESERVED_FIELD. -/
def flagOperand (sub : BitVec 4) : Except ErrCode Bool :=
  match sub.toNat with
  | 0 => .ok false
  | 1 => .ok true
  | _ => .error .reservedField

/-- Filter type in S: 0..2, else RESERVED_FIELD. -/
def filterOperand (sub : BitVec 4) : Except ErrCode FilterType :=
  match sub.toNat with
  | 0 => .ok .none
  | 1 => .ok .low
  | 2 => .ok .high
  | _ => .error .reservedField

/-- Preset in S, as the four masks of R213 in slot order A..D: 0 stack, 1 parallel, 2 square, 3 threeToOne;
else RESERVED_FIELD. -/
def presetOperand (sub : BitVec 4) : Except ErrCode (Quad (BitVec 4)) :=
  match sub.toNat with
  | 0 => .ok ⟨0b0010#4, 0b0100#4, 0b1000#4, 0b0000#4⟩
  | 1 => .ok ⟨0b0000#4, 0b0000#4, 0b0000#4, 0b0000#4⟩
  | 2 => .ok ⟨0b0010#4, 0b0000#4, 0b1000#4, 0b0000#4⟩
  | 3 => .ok ⟨0b1000#4, 0b1000#4, 0b1000#4, 0b0000#4⟩
  | _ => .error .reservedField

end Sys2Proof.Machine
end

