-- ==== Sys2Proof/Machine/System.lean ====
section
/-! DEFINITION. System commands (45_system.md R257 to R261). -/

namespace Sys2Proof.Machine

/-- NOP (R257). -/
def execNop (s : State) : Result := finish .nop s (.ok s)

/-- CLEAR_ERR (R258, R277). -/
def execClearErr (s : State) : Result := finish .clearErr s (.ok (clearErrors s))

/-- SOFT_RESET (R259, R297). -/
def execSoftReset (s : State) : Result := finish .softReset s (.ok (resetBlock s))

/-- SET_IRQ_EN (R260). -/
def execSetIrqEn (sub : BitVec 4) (s : State) : Result :=
  finish (.setIrqEn sub) s do
    let f ← flagOperand sub
    return { s with irqEn := f }

/-- SET_SEED (R261). -/
def execSetSeed (s : State) : Result :=
  finish .setSeed s (.ok { s with noiseSeed := operandU32 s })

end Sys2Proof.Machine
end

