-- ==== Sys2Proof/Machine/Oscillators.lean ====
section
/-! DEFINITION. Oscillators (40_oscillators.md): phases, waveforms and noise of R112 to R123, and the commands
SET_WAVE, SET_FREQ, SET_RATIO, SET_AMP, SET_FIXED, SET_DISABLED (R125 to R130). -/

namespace Sys2Proof.Machine

/-- A block of samples (R12). -/
abbrev Block := List F64

/-- Increment of a slot oscillator (R112): bits 47:16 of the 64-bit product of note and ratio. -/
def phaseIncrement (t : Template) (note : Word) : Word :=
  if t.fixed then t.freq
  else (note.setWidth 64 * t.ratio.setWidth 64).extractLsb' 16 32

/-- Phase of sample `i` (R113). -/
def phaseAt (ph inc : Word) (i : Nat) : Word := ph + BitVec.ofNat 32 i * inc

/-- Phases of a block of `n` samples (R113). -/
def phaseBlock (ph inc : Word) (n : Nat) : List Word := (List.range n).map (phaseAt ph inc)

/-- Angle of a phase word (R114). -/
def rad (p : Word) : F64 := fMul fTwoPi (fMul (fOfWord p) fTwoPowMinus32)

/-- Sine waveform (R115). -/
def sineSample (p : Word) : F64 := Config.fnSin (rad p)

/-- Square waveform (R116). -/
def squareSample (p : Word) : F64 := if p.getLsbD 31 then fMinusOne else fOne

/-- One step of the noise generator (R117). -/
def noiseStep (x : Word) : Word :=
  let x1 := x ^^^ (x <<< 13)
  let x2 := x1 ^^^ (x1 >>> 17)
  x2 ^^^ (x2 <<< 5)

/-- Noise sample of a generator state (R117). -/
def noiseSample (x : Word) : F64 := fSub (fMul (fOfWord x) fTwoPowMinus31) fOne

/-- `n` noise samples, stepping before each, and the state after them (R117). -/
def noiseBlock : Nat → Word → Block × Word
  | 0, x => ([], x)
  | n + 1, x =>
    let x' := noiseStep x
    let rest := noiseBlock n x'
    (noiseSample x' :: rest.1, rest.2)

/-- Waveform samples of a block and the noise state after it; the generator steps only for noise (R115 to R117). -/
def waveBlock (w : Waveform) (phases : List Word) (nz : Word) : Block × Word :=
  match w with
  | .sine => (phases.map sineSample, nz)
  | .square => (phases.map squareSample, nz)
  | .noise => noiseBlock phases.length nz

/-- Seed of generator `g` of the voice with sequence number `seq` (R118). -/
def noiseSeedFor (base : Word) (seq : BitVec 64) (g : Nat) : Word :=
  let seed := base + 0x9E3779B9#32 * (5#32 * seq.setWidth 32 + BitVec.ofNat 32 g + 1#32)
  if seed = 0#32 then 1#32 else seed

/-- What a slot oscillator gives for a block (R119, R120) and its state after it. -/
structure SlotOut where
  /-- `s_k`, sample mode. -/
  sample : Block
  /-- `th_k`, modulation-mode angle. -/
  angle : Block
  /-- `a_k`, modulation-mode amplitude. -/
  ampl : Block
  /-- Phase after the block. -/
  ph : Word
  /-- Noise state after the block. -/
  nz : Word
  deriving DecidableEq, Repr

/-- Oscillator of a slot for one block, from its envelope block `e` (R113, R117, R119 to R122). A disabled slot's
outputs are +0.0 and its state advances as if enabled. -/
def slotOscillator (t : Template) (note : Word) (o : OscState) (e : Block) (n : Nat) : SlotOut :=
  let inc := phaseIncrement t note
  let phases := phaseBlock o.ph inc n
  let w := waveBlock t.wave phases o.nz
  { sample := if t.disabled then List.replicate n fZero else List.zipWith fMul e w.1
    angle := phases.map rad
    ampl := if t.disabled then List.replicate n fZero else e
    ph := phaseAt o.ph inc n
    nz := w.2 }

/-- Tremolo oscillator of a voice for one block: `am`, phase and noise state after it (R123). -/
def tremoloOscillator (c : Tremolo) (ph nz : Word) (n : Nat) : Block × Word × Word :=
  let w := waveBlock c.wave (phaseBlock ph c.freq n) nz
  (w.1.map (fMul c.amp), phaseAt ph c.freq n, w.2)

/-- SET_WAVE (R125). -/
def execSetWave (k sub : BitVec 4) (s : State) : Result :=
  finish (.setWave k sub) s do
    let w ← waveOperand sub
    let j ← slotOperand k
    return updateTemplate j (fun t => { t with wave := w }) s

/-- SET_FREQ (R126). -/
def execSetFreq (k : BitVec 4) (s : State) : Result :=
  finish (.setFreq k) s do
    let j ← slotOperand k
    return updateTemplate j (fun t => { t with freq := operandU32 s }) s

/-- SET_RATIO (R127). -/
def execSetRatio (k : BitVec 4) (s : State) : Result :=
  finish (.setRatio k) s do
    let j ← slotOperand k
    return updateTemplate j (fun t => { t with ratio := operandU32 s }) s

/-- SET_AMP (R128). -/
def execSetAmp (k : BitVec 4) (s : State) : Result :=
  finish (.setAmp k) s do
    let j ← slotOperand k
    let x ← operandUnit s
    return updateTemplate j (fun t => { t with amp := x }) s

/-- SET_FIXED (R129). -/
def execSetFixed (k sub : BitVec 4) (s : State) : Result :=
  finish (.setFixed k sub) s do
    let f ← flagOperand sub
    let j ← slotOperand k
    return updateTemplate j (fun t => { t with fixed := f }) s

/-- SET_DISABLED (R130). -/
def execSetDisabled (k sub : BitVec 4) (s : State) : Result :=
  finish (.setDisabled k sub) s do
    let f ← flagOperand sub
    let j ← slotOperand k
    return updateTemplate j (fun t => { t with disabled := f }) s

end Sys2Proof.Machine
end

