-- ==== Sys2Proof/Machine/Envelope.lean ====
section
/-! DEFINITION. ADSR envelope (42_envelope.md): the three steps of a block (R172 to R179), the release trigger
(R181), and the commands SET_ATTACK to SET_DRTARGET (R185 to R190). -/

namespace Sys2Proof.Machine

/-- sustainLevel `SL = AMP * SUS` (R172). -/
def sustainLevel (t : Template) : F64 := fMul t.amp t.sus

/-- `q = T / (A + T)` (R173, R174), `A` being the template's AMP. -/
def stageQuotient (t : Template) (target : F64) : F64 := fDiv target (fAdd t.amp target)

/-- A stage of length `len` and target offset `target` is instantaneous (R173). -/
def instantaneous (t : Template) (len : Word) (target : F64) : Bool :=
  len == 0#32 || fEq (stageQuotient t target) fOne

/-- Stage and value of an envelope. -/
abbrev EnvPoint := Stage × F64

/-- One round of the loop of R175. -/
def passOnce (t : Template) (p : EnvPoint) : EnvPoint :=
  match p.1 with
  | .attack => if instantaneous t t.att t.atgt then (.decay, t.amp) else p
  | .decay => if instantaneous t t.dec t.drtgt then (.sustain, sustainLevel t) else p
  | .sustain => p
  | .release => if instantaneous t t.rel t.drtgt then (.idle, fZero) else p
  | .idle => p

/-- Step 1 of a block: pass through instantaneous stages, at most three times (R175). -/
def passThrough (t : Template) (p : EnvPoint) : EnvPoint := passOnce t (passOnce t (passOnce t p))

/-- The multiplier `m` of a stage (R174). -/
def stageMultiplier (t : Template) (len : Word) (target : F64) : F64 :=
  Config.fnExp (fMul (fDiv fOne (fOfWord len)) (Config.fnLn (stageQuotient t target)))

/-- `base` of a rising stage: `(L + T) * (1.0 - m)` (R174). -/
def risingBase (level target m : F64) : F64 := fMul (fAdd level target) (fSub fOne m)

/-- `base` of a falling stage: `(L - T) * (1.0 - m)` (R174). -/
def fallingBase (level target m : F64) : F64 := fMul (fSub level target) (fSub fOne m)

/-- `n` samples of the recurrence `env <- base + env * m`, each emitted after its update, and the last value
(R176). -/
def rampBlock (base m : F64) : Nat → F64 → Block × F64
  | 0, env => ([], env)
  | n + 1, env =>
    let env' := fAdd base (fMul env m)
    let rest := rampBlock base m n env'
    (env' :: rest.1, rest.2)

/-- Envelope block with the stage and value after it. -/
structure EnvOut where
  block : Block
  est : Stage
  env : F64
  deriving DecidableEq, Repr

/-- Steps 2 and 3 in ATTACK (R172, R176, R179). -/
def attackBlock (t : Template) (n : Nat) (env : F64) : EnvOut :=
  let m := stageMultiplier t t.att t.atgt
  let r := rampBlock (risingBase t.amp t.atgt m) m n env
  if fLe t.amp r.2 then ⟨r.1, .decay, t.amp⟩ else ⟨r.1, .attack, r.2⟩

/-- Steps 2 and 3 in DECAY (R172, R176, R179). -/
def decayBlock (t : Template) (n : Nat) (env : F64) : EnvOut :=
  let m := stageMultiplier t t.dec t.drtgt
  let r := rampBlock (fallingBase (sustainLevel t) t.drtgt m) m n env
  if fLe r.2 (sustainLevel t) then ⟨r.1, .sustain, sustainLevel t⟩ else ⟨r.1, .decay, r.2⟩

/-- Steps 2 and 3 in RELEASE (R172, R176, R179). -/
def releaseBlock (t : Template) (n : Nat) (env : F64) : EnvOut :=
  let m := stageMultiplier t t.rel t.drtgt
  let r := rampBlock (fallingBase fZero t.drtgt m) m n env
  if fLe r.2 fZero then ⟨r.1, .idle, fZero⟩ else ⟨r.1, .release, r.2⟩

/-- Steps 2 and 3 of a block (R176 to R179). -/
def stageBlock (t : Template) (n : Nat) (p : EnvPoint) : EnvOut :=
  match p.1 with
  | .attack => attackBlock t n p.2
  | .decay => decayBlock t n p.2
  | .sustain => ⟨List.replicate n (sustainLevel t), .sustain, sustainLevel t⟩
  | .release => releaseBlock t n p.2
  | .idle => ⟨List.replicate n fZero, .idle, p.2⟩

/-- One slot envelope for one block: steps 1, 2 and 3. -/
def envelopeBlock (t : Template) (n : Nat) (est : Stage) (env : F64) : EnvOut :=
  stageBlock t n (passThrough t (est, env))

/-- The release trigger on one stage (R181): RELEASE and IDLE stay. -/
def releaseStage : Stage → Stage
  | .attack => .release
  | .decay => .release
  | .sustain => .release
  | .release => .release
  | .idle => .idle

/-- The release trigger on every slot of a voice; the envelope values are kept (R181). -/
def releaseVoice (v : Voice) : Voice :=
  { v with osc := Quad.ofFn fun k => { v.osc.get k with est := releaseStage (v.osc.get k).est } }

/-- SET_ATTACK (R185). -/
def execSetAttack (k : BitVec 4) (s : State) : Result :=
  finish (.setAttack k) s do
    let j ← slotOperand k
    return updateTemplate j (fun t => { t with att := operandU32 s }) s

/-- SET_DECAY (R186). -/
def execSetDecay (k : BitVec 4) (s : State) : Result :=
  finish (.setDecay k) s do
    let j ← slotOperand k
    return updateTemplate j (fun t => { t with dec := operandU32 s }) s

/-- SET_SUSTAIN (R187). -/
def execSetSustain (k : BitVec 4) (s : State) : Result :=
  finish (.setSustain k) s do
    let j ← slotOperand k
    let x ← operandUnit s
    return updateTemplate j (fun t => { t with sus := x }) s

/-- SET_RELEASE (R188). -/
def execSetRelease (k : BitVec 4) (s : State) : Result :=
  finish (.setRelease k) s do
    let j ← slotOperand k
    return updateTemplate j (fun t => { t with rel := operandU32 s }) s

/-- SET_ATARGET (R189). -/
def execSetAtarget (k : BitVec 4) (s : State) : Result :=
  finish (.setAtarget k) s do
    let j ← slotOperand k
    let x ← operandOffset s
    return updateTemplate j (fun t => { t with atgt := x }) s

/-- SET_DRTARGET (R190). -/
def execSetDrtarget (k : BitVec 4) (s : State) : Result :=
  finish (.setDrtarget k) s do
    let j ← slotOperand k
    let x ← operandOffset s
    return updateTemplate j (fun t => { t with drtgt := x }) s

end Sys2Proof.Machine
end

