-- ==== Sys2Proof/Machine/Modulation.lean ====
section
/-! DEFINITION. Modulation and filter nodes (41_modulation_filters.md): AM, FM, SumFilter, PassFilter and AntiClick
(R141 to R153), and the commands SET_PASS, SET_AM_ENABLE, SET_AM_WAVE, SET_AM_FREQ, SET_AM_AMP (R151,
R154 to R157). -/

namespace Sys2Proof.Machine

/-- SumFilter (R145): `g * (x_1 + x_2 + ... + x_n)` with `g = 1.0 / n`, added in the order of the list. The rule
asks for n >= 1; no caller gives an empty list. -/
def sumFilter : List Block → Block
  | [] => []
  | x :: xs => (xs.foldl (List.zipWith fAdd) x).map (fMul (fDiv fOne (fOfNat (xs.length + 1))))

/-- FrequencyModulation node (R143): `a * FN_COS(th + m)`, whatever the waveform. -/
def fmBlock (o : SlotOut) (m : Block) : Block :=
  List.zipWith fMul o.ampl ((List.zipWith fAdd o.angle m).map Config.fnCos)

/-- Modulator of an FM node from its parents' outputs in slot order (R144). -/
def modulator : List Block → Block
  | [y] => y
  | ys => sumFilter ys

/-- AmplitudeModulation node (R141, R142). -/
def tremoloNode (en : Bool) (x am : Block) : Block :=
  if en then List.zipWith (fun v a => fMul v (fAdd fOne a)) x am else x

/-- The recurrence of R147 over a block, with the filter memory after it. -/
def passRecurrence (b0 b1 a1 : F64) : Block → F64 → Block × F64
  | [], z => ([], z)
  | x :: xs, z =>
    let y := fAdd (fMul b0 x) z
    let rest := passRecurrence b0 b1 a1 xs (fSub (fMul b1 x) (fMul a1 y))
    (y :: rest.1, rest.2)

/-- PassFilter node (R147, R148). -/
def passNode (p : PassFilter) (x : Block) (z : F64) : Block × F64 :=
  match p.type with
  | .none => (x, z)
  | .low => passRecurrence p.b0 p.b1 p.a1 x z
  | .high => passRecurrence p.b0 p.b1 p.a1 x z

/-- Coefficients of a cutoff word for a type (R150); with type none nothing is computed. -/
def passCoefficients (p : PassFilter) (ty : FilterType) (c : Word) : PassFilter :=
  let kk := Config.fnTan (fMul fPi (fMul (fOfWord c) fTwoPowMinus32))
  let t := fAdd fOne kk
  let a1 := fDiv (fSub kk fOne) t
  match ty with
  | .none => { p with type := .none }
  | .low => ⟨.low, c, fDiv kk t, fDiv kk t, a1⟩
  | .high => ⟨.high, c, fDiv fOne t, fNeg (fDiv fOne t), a1⟩

/-- Anti-click gain of the voice's sample number `c` (R152), FADE_LEN not 0. -/
def fadeGain (len : BitVec 16) (c : Nat) : F64 :=
  fDiv (fOfNat (min c len.toNat)) (fOfNat len.toNat)

/-- AntiClick node (R152). -/
def fadeNode (len c0 : BitVec 16) (x : Block) : Block :=
  if len = 0#16 then x
  else List.zipWith (fun i v => fMul (fadeGain len (c0.toNat + i)) v) (List.range x.length) x

/-- The fade counter after a block of `n` samples (R153). -/
def fadeAfter (len c0 : BitVec 16) (n : Nat) : BitVec 16 := BitVec.ofNat 16 (min (c0.toNat + n) len.toNat)

/-- Legal cutoff words, 1..0x7FFFFFFF (R151, R272). -/
def cutoffLegal (c : Word) : Bool := decide (1 ≤ c.toNat ∧ c.toNat ≤ 0x7FFFFFFF)

/-- SET_PASS (R151). -/
def execSetPass (sub : BitVec 4) (s : State) : Result :=
  finish (.setPass sub) s do
    let ty ← filterOperand sub
    require (ty == .none || cutoffLegal (operandU32 s)) .badValue
    return { s with pass := passCoefficients s.pass ty (operandU32 s) }

/-- SET_AM_ENABLE (R154). -/
def execSetAmEnable (sub : BitVec 4) (s : State) : Result :=
  finish (.setAmEnable sub) s do
    let f ← flagOperand sub
    return { s with tremolo := { s.tremolo with en := f } }

/-- SET_AM_WAVE (R155). -/
def execSetAmWave (sub : BitVec 4) (s : State) : Result :=
  finish (.setAmWave sub) s do
    let w ← waveOperand sub
    return { s with tremolo := { s.tremolo with wave := w } }

/-- SET_AM_FREQ (R156). -/
def execSetAmFreq (s : State) : Result :=
  finish .setAmFreq s (.ok { s with tremolo := { s.tremolo with freq := operandU32 s } })

/-- SET_AM_AMP (R157). -/
def execSetAmAmp (s : State) : Result :=
  finish .setAmAmp s do
    let x ← operandUnit s
    return { s with tremolo := { s.tremolo with amp := x } }

end Sys2Proof.Machine
end

