-- ==== Sys2Proof/Machine/Routing.lean ====
section
/-! DEFINITION. Routing (43_routing.md): the graph of the present slots (R201 to R203), its cycle check (R210), node
outputs and the routed voice output (R205 to R207), and the commands SET_PRESENT, SET_TARGETS, APPLY_PRESET
(R211 to R213). -/

namespace Sys2Proof.Machine

/-- Slot `k` is present and modulates the present slot `j`: `j` is in `tg(k)` (R201). -/
def edge (ts : Quad Template) (k j : Slot) : Bool :=
  (ts.get k).present && (ts.get j).present && (ts.get k).targets.getLsbD j.index

/-- Carriers, in increasing slot order (R202). -/
def carriers (ts : Quad Template) : List Slot :=
  Slot.all.filter fun k => (ts.get k).present && Slot.all.all fun j => !edge ts k j

/-- Parents of a slot, in increasing slot order (R203). -/
def parents (ts : Quad Template) (k : Slot) : List Slot := Slot.all.filter fun p => edge ts p k

/-- Slot `j` can be reached from slot `k` through one to `n` edges. -/
def reaches (ts : Quad Template) : Nat → Slot → Slot → Bool
  | 0, _, _ => false
  | n + 1, k, j => edge ts k j || Slot.all.any fun m => edge ts k m && reaches ts n m j

/-- "a slot reachable from itself through one or more edges" (R210); with four slots a shortest cycle has at
most four edges. -/
def cyclic (ts : Quad Template) : Bool := Slot.all.any fun k => reaches ts 4 k k

/-- Node output of a present slot (R205), `depth` bounding how many slots a chain of parents holds; in an acyclic
graph of four slots no chain holds more than four. -/
def nodeOutput (ts : Quad Template) (outs : Quad SlotOut) : Nat → Slot → Block
  | 0, k => (outs.get k).sample
  | depth + 1, k =>
    match parents ts k with
    | [] => (outs.get k).sample
    | p :: ps => fmBlock (outs.get k) (modulator ((p :: ps).map (nodeOutput ts outs depth)))

/-- The node output `y_k` of a block (R205, R206). -/
def slotNode (ts : Quad Template) (outs : Quad SlotOut) (k : Slot) : Block := nodeOutput ts outs 4 k

/-- Routed voice output `vr` (R207). -/
def routedOutput (ts : Quad Template) (outs : Quad SlotOut) (n : Nat) : Block :=
  match carriers ts with
  | [] => List.replicate n fZero
  | c :: cs => sumFilter ((c :: cs).map (slotNode ts outs))

/-- SET_PRESENT (R211). -/
def execSetPresent (k sub : BitVec 4) (s : State) : Result :=
  finish (.setPresent k sub) s do
    let f ← flagOperand sub
    let j ← slotOperand k
    let s' := updateTemplate j (fun t => { t with present := f }) s
    require (!cyclic s'.templates) .routingCycle
    return s'

/-- SET_TARGETS (R212). -/
def execSetTargets (k : BitVec 4) (s : State) : Result :=
  finish (.setTargets k) s do
    let j ← slotOperand k
    let mask ← operandMask s
    let s' := updateTemplate j (fun t => { t with targets := mask }) s
    require (!cyclic s'.templates) .routingCycle
    return s'

/-- APPLY_PRESET (R213). -/
def execApplyPreset (sub : BitVec 4) (s : State) : Result :=
  finish (.applyPreset sub) s do
    let masks ← presetOperand sub
    return { s with templates := Quad.ofFn fun k => { s.templates.get k with targets := masks.get k } }

end Sys2Proof.Machine
end

