-- ==== Sys2Proof/Machine/Voices.lean ====
section
/-! DEFINITION. Voice manager, block pull and dynamic mixer (44_voice_mixer.md): NOTE_ON with stealing (R227 to
R229), NOTE_OFF (R230), PULL (R231 to R241), SET_MAXV (R242). -/

namespace Sys2Proof.Machine

/-- Initial state of a new voice (R182, R229). -/
def newVoice (s : State) : Voice where
  valid := true
  seq := s.vseq
  note := operandU32 s
  osc := Quad.ofFn fun k => ⟨0#32, .attack, fZero, noiseSeedFor s.noiseSeed s.vseq k.index⟩
  amPh := 0#32
  amNz := noiseSeedFor s.noiseSeed s.vseq 4
  z := fZero
  fade := 0#16

/-- The smallest sequence number among the valid voices (R228). -/
def oldestSeq (vs : List Voice) : Option (BitVec 64) :=
  (validVoices vs).foldl
    (fun best v =>
      match best with
      | none => some v.seq
      | some q => some (if v.seq.toNat < q.toNat then v.seq else q))
    none

/-- An envelope stage from unspecified bits; values 5..7 never occur (R46). -/
def stageOfBits (b : BitVec 64) : Stage :=
  match b.toNat % 5 with
  | 0 => .attack
  | 1 => .decay
  | 2 => .sustain
  | 3 => .release
  | _ => .idle

/-- What a voice slot holds once the voice with sequence number `q` has left it: `valid = 0`, and every other field a
free value (R45, assumption 4). -/
def staleSlot (q : BitVec 64) : Voice where
  valid := false
  seq := Config.staleBits q 0
  note := (Config.staleBits q 1).setWidth 32
  osc := Quad.ofFn fun k =>
    { ph := (Config.staleBits q (6 + 4 * k.index)).setWidth 32
      est := stageOfBits (Config.staleBits q (7 + 4 * k.index))
      env := Config.staleBits q (8 + 4 * k.index)
      nz := (Config.staleBits q (9 + 4 * k.index)).setWidth 32 }
  amPh := (Config.staleBits q 2).setWidth 32
  amNz := (Config.staleBits q 3).setWidth 32
  z := Config.staleBits q 4
  fade := (Config.staleBits q 5).setWidth 16

/-- `V[v].valid <- 0`, on eviction and on pruning (R227, R239). -/
def invalidate (v : Voice) : Voice := staleSlot v.seq

/-- Makes the first valid voice slot that holds sequence number `q` invalid. -/
def dropSeq (q : BitVec 64) : List Voice → List Voice
  | [] => []
  | v :: rest => if v.valid = true ∧ v.seq = q then invalidate v :: rest else v :: dropSeq q rest

/-- Evicts the oldest voice (R228). -/
def evictOldest (vs : List Voice) : List Voice :=
  match oldestSeq vs with
  | none => vs
  | some q => dropSeq q vs

/-- `while count(valid voices) >= MAXV` evict the oldest (R227). Each round evicts a voice, so a fuel of the
table's length is enough whenever MAXV is not 0. -/
def evictWhileFull (maxv : Nat) : Nat → List Voice → List Voice
  | 0, vs => vs
  | fuel + 1, vs => if maxv ≤ voiceCount vs then evictWhileFull maxv fuel (evictOldest vs) else vs

/-- Puts a voice into the lowest-numbered free voice slot (R227); `none` when there is none. -/
def placeVoice (v : Voice) : List Voice → Option (List Voice)
  | [] => none
  | u :: rest => if u.valid then (placeVoice v rest).map (u :: ·) else some (v :: rest)

/-- NOTE_ON (R227 to R229). -/
def execNoteOn (s : State) : Result :=
  if s.vseq = 0xFFFFFFFFFFFFFFFF#64 then .refused .vseqExhausted
  else
    match placeVoice (newVoice s) (evictWhileFull s.maxv.toNat s.voices.length s.voices) with
    | none => .fault .noFreeVoiceSlot
    | some vs => finish .noteOn s (.ok { s with voices := vs, vseq := s.vseq + 1#64 })

/-- The release trigger on a voice slot that is valid and whose note is `note` (R230). -/
def releaseIfNote (note : Word) (v : Voice) : Voice :=
  if v.valid = true ∧ v.note = note then releaseVoice v else v

/-- NOTE_OFF (R230). -/
def execNoteOff (s : State) : Result :=
  finish .noteOff s (.ok { s with voices := s.voices.map (releaseIfNote (operandU32 s)) })

/-- Envelope of every slot of a voice for one block (R233 part 1). -/
def voiceEnvelopes (s : State) (v : Voice) : Quad EnvOut :=
  Quad.ofFn fun k =>
    envelopeBlock (s.templates.get k) s.build.blockLen (v.osc.get k).est (v.osc.get k).env

/-- Oscillator of every slot of a voice for one block (R233 part 2), from the envelopes `e`. -/
def voiceOscillators (s : State) (v : Voice) (e : Quad EnvOut) : Quad SlotOut :=
  Quad.ofFn fun k =>
    slotOscillator (s.templates.get k) v.note (v.osc.get k) (e.get k).block s.build.blockLen

/-- `VoiceBlock(v)` (R226, R233): the voice's output block `vo` and its state after the block. `s` is the state at
the start of the PULL, so every parameter is read live (R40, R232). -/
def voiceBlock (s : State) (v : Voice) : Block × Voice :=
  let n := s.build.blockLen
  let e := voiceEnvelopes s v
  let o := voiceOscillators s v e
  let am := tremoloOscillator s.tremolo v.amPh v.amNz n
  let vr := routedOutput s.templates o n
  let va := tremoloNode s.tremolo.en vr am.1
  let vp := passNode s.pass va v.z
  let vo := fadeNode s.build.fadeLen v.fade vp.1
  (vo,
    { v with
      osc := Quad.ofFn fun k => ⟨(o.get k).ph, (e.get k).est, (e.get k).env, (o.get k).nz⟩
      amPh := am.2.1
      amNz := am.2.2
      z := vp.2
      fade := fadeAfter s.build.fadeLen v.fade n })

/-- `VoiceIdle(v)` after the block (R238): every carrier slot is IDLE; vacuous when there is no carrier. -/
def voiceIdle (ts : Quad Template) (v : Voice) : Bool :=
  (carriers ts).all fun c => (v.osc.get c).est == .idle

/-- Members with their blocks in ascending sequence number, oldest first (R237). -/
def sortMembers (rs : List (Block × Voice)) : List (Block × Voice) :=
  rs.insertionSort fun p q => p.2.seq.toNat ≤ q.2.seq.toNat

/-- Mixer output over the members' blocks (R237, R241). -/
def mixBlocks (n : Nat) : List Block → Block
  | [] => List.replicate n fZero
  | b :: bs => sumFilter (b :: bs)

/-- Pruning of one member after the block (R239). -/
def pruneIdle (ts : Quad Template) (v : Voice) : Voice := if voiceIdle ts v then invalidate v else v

/-- The members' blocks, with the voices after them (R231). -/
def memberResults (s : State) : List (Block × Voice) := (validVoices s.voices).map (voiceBlock s)

/-- OUT after a PULL (R231, R237, R241). -/
def pulledOut (s : State) : Block :=
  mixBlocks s.build.blockLen ((sortMembers (memberResults s)).map (·.1))

/-- A voice slot after a PULL (R231, R239); an invalid slot takes no part (R45). -/
def pulledSlot (s : State) (v : Voice) : Voice :=
  if v.valid then pruneIdle s.templates (voiceBlock s v).2 else v

/-- The voice table after a PULL. -/
def pulledVoices (s : State) : List Voice := s.voices.map (pulledSlot s)

/-- PULL (R231, R240). -/
def execPull (s : State) : Result :=
  if cyclic s.templates then .fault .cyclicRouting
  else
    finish .pull s
      (.ok { s with out := pulledOut s, voices := pulledVoices s, blockCount := s.blockCount + 1#32 })

/-- SET_MAXV (R242). -/
def execSetMaxv (s : State) : Result :=
  finish .setMaxv s do
    require (decide (1 ≤ (operandU32 s).toNat ∧ (operandU32 s).toNat ≤ s.build.vmax)) .badValue
    return { s with maxv := (operandU32 s).setWidth 8 }

end Sys2Proof.Machine
end

