-- ==== Sys2Proof/Machine/Dispatch.lean ====
section
/-! DEFINITION. The meaning of every command (30_encoding.md R96), one arm per constructor. -/

namespace Sys2Proof.Machine

def exec (i : Instr) (s : State) : Host.Outcome State Fault Refusal :=
  match i with
  | .nop => Sys2Proof.Machine.execNop s
  | .clearErr => Sys2Proof.Machine.execClearErr s
  | .softReset => Sys2Proof.Machine.execSoftReset s
  | .setIrqEn sub => Sys2Proof.Machine.execSetIrqEn sub s
  | .setMaxv => Sys2Proof.Machine.execSetMaxv s
  | .setSeed => Sys2Proof.Machine.execSetSeed s
  | .setWave k sub => Sys2Proof.Machine.execSetWave k sub s
  | .setFreq k => Sys2Proof.Machine.execSetFreq k s
  | .setRatio k => Sys2Proof.Machine.execSetRatio k s
  | .setAmp k => Sys2Proof.Machine.execSetAmp k s
  | .setFixed k sub => Sys2Proof.Machine.execSetFixed k sub s
  | .setDisabled k sub => Sys2Proof.Machine.execSetDisabled k sub s
  | .setPresent k sub => Sys2Proof.Machine.execSetPresent k sub s
  | .setTargets k => Sys2Proof.Machine.execSetTargets k s
  | .setAttack k => Sys2Proof.Machine.execSetAttack k s
  | .setDecay k => Sys2Proof.Machine.execSetDecay k s
  | .setSustain k => Sys2Proof.Machine.execSetSustain k s
  | .setRelease k => Sys2Proof.Machine.execSetRelease k s
  | .setAtarget k => Sys2Proof.Machine.execSetAtarget k s
  | .setDrtarget k => Sys2Proof.Machine.execSetDrtarget k s
  | .applyPreset sub => Sys2Proof.Machine.execApplyPreset sub s
  | .setAmEnable sub => Sys2Proof.Machine.execSetAmEnable sub s
  | .setAmWave sub => Sys2Proof.Machine.execSetAmWave sub s
  | .setAmFreq => Sys2Proof.Machine.execSetAmFreq s
  | .setAmAmp => Sys2Proof.Machine.execSetAmAmp s
  | .setPass sub => Sys2Proof.Machine.execSetPass sub s
  | .noteOn => Sys2Proof.Machine.execNoteOn s
  | .noteOff => Sys2Proof.Machine.execNoteOff s
  | .pull => Sys2Proof.Machine.execPull s

end Sys2Proof.Machine
end

