-- ==== Sys2Proof/Machine/Bus.lean ====
section
/-! DEFINITION. Host accesses (20_memory.md R61 to R75, 60_exceptions.md R281, R289, 70_reset_and_hazards.md R296,
R297): what one event of the bus does to the block. -/

namespace Sys2Proof.Machine

/-- The error a word raises that names no row of R96 (R94, R95, R271). -/
def decodeErrCode : DecodeError → ErrCode
  | .illegalOpcode => .illegalOpcode
  | .reservedField => .reservedField

/-- A write of `w` to CMD executes the command before the write completes (R28, R62, R97). -/
def runCommand (w : Word) (s : State) : Result :=
  match decode w with
  | .ok i => exec i s
  | .error e => .next (raiseError (decodeErrCode e) w s)

/-- A host read (R63, R66 to R69). -/
def hostRead (a : Addr) (size : Nat) (s : State) : Result :=
  if accessDefined a size then .next { s with resp := .readData (readWord s a) } else .refused .busError

/-- A host write (R62, R63, R66 to R69). -/
def hostWrite (a : Addr) (size : Nat) (v : Word) (s : State) : Result :=
  if accessDefined a size then
    if a = cmdAddr then runCommand v { s with resp := .writeDone }
    else .next { writeRegister s a v with resp := .writeDone }
  else .refused .busError

/-- The reset input: the same effect as SOFT_RESET (R296, R297), with no access to answer. -/
def resetInput (s : State) : State := { resetBlock s with resp := .quiet }

/-- One event of the bus. -/
def busEvent (e : BusEvent) (s : State) : Result :=
  match e with
  | .read a size => hostRead a size s
  | .write a size v => hostWrite a size v s
  | .rst => .next (resetInput s)

/-- One step of the machine: the next host access in the bus's total order (R71); with none to come the block is
idle and keeps all state (R287, R310). -/
def serveNext (s : State) : Result :=
  match s.bus with
  | [] => .next s
  | e :: rest => busEvent e { s with bus := rest }

/-- The host writes a command word to CMD as its next access (R28, R101). -/
def placeCommand (w : Word) (s : State) : State := { s with bus := .write cmdAddr 4 w :: s.bus }

end Sys2Proof.Machine
end

