-- ==== Sys2Proof/Machine/Step.lean ====
section
/-! DEFINITION. The step of the machine: one host access (20_memory.md R62, R71). -/

namespace Sys2Proof.Machine

/-- One step: the next host access is performed to completion (R62, R71, R73). -/
def step (s : State) : Host.Outcome State Fault Refusal := serveNext s

/-- `s` with the table word `w` as the host's next write to CMD: the block fetches nothing (R6, R24, R74), a command
comes by that write (assumption 2). -/
def State.withFetchWord (s : State) (nbits w : Nat) : State :=
  placeCommand (BitVec.ofNat 32 (w % 2 ^ nbits)) s

end Sys2Proof.Machine
end

