-- ==== Sys2Proof/Machine/Assembly.lean ====
section
/-! DEFINITION. What a line of assembly makes the host write and read (30_encoding.md R100 to R102), as lists of
bus events in bus order. The conversions of the HZ and MIDI pseudo-instructions are host computations
outside the block (R5, R15) and are left out. -/

namespace Sys2Proof.Machine

/-- The operand of an assembly line (R100). -/
inductive AsmOperand where
  | absent
  | u32 (v : Word)
  | f64 (x : F64)
  | mask (m : BitVec 4)
  deriving DecidableEq, Repr

/-- Offsets of ARG0 and ARG1 (R66). -/
def arg0Addr : Addr := 0x0014#16
def arg1Addr : Addr := 0x0018#16

/-- The operand writes of a line (R101): ARG0 for u32 and mask, ARG0 then ARG1 for f64. -/
def operandWrites : AsmOperand → List BusEvent
  | .absent => []
  | .u32 v => [.write arg0Addr 4 v]
  | .f64 x => [.write arg0Addr 4 (x.extractLsb' 0 32), .write arg1Addr 4 (x.extractLsb' 32 32)]
  | .mask m => [.write arg0Addr 4 (m.setWidth 32)]

/-- The bus writes of an assembly line, the CMD write last (R101). -/
def asmLine (i : Instr) (o : AsmOperand) : List BusEvent := operandWrites o ++ [.write cmdAddr 4 (encode i)]

/-- `READ reg` (R102). -/
def pseudoRead (offset : Addr) : List BusEvent := [.read offset 4]

/-- `READOUT i` (R102). -/
def pseudoReadOut (i : Nat) : List BusEvent :=
  [.read (BitVec.ofNat 16 (0x8000 + 8 * i)) 4, .read (BitVec.ofNat 16 (0x8000 + 8 * i + 4)) 4]

/-- `PULLN m` (R102). -/
def pseudoPulls (m : Nat) : List BusEvent := (List.replicate m (asmLine .pull .absent)).flatten

/-- `SET_FLAGS k, fixed, disabled, present` (R102). -/
def pseudoSetFlags (k : Slot) (fixed disabled present : Bool) : List BusEvent :=
  asmLine (.setFixed (slotCode k) (flagCode fixed)) .absent ++
    asmLine (.setDisabled (slotCode k) (flagCode disabled)) .absent ++
    asmLine (.setPresent (slotCode k) (flagCode present)) .absent

/-- `SET_ADSR k, a, d, s, r` (R102). -/
def pseudoSetAdsr (k : Slot) (a d : Word) (sus : F64) (r : Word) : List BusEvent :=
  asmLine (.setAttack (slotCode k)) (.u32 a) ++ asmLine (.setDecay (slotCode k)) (.u32 d) ++
    asmLine (.setSustain (slotCode k)) (.f64 sus) ++ asmLine (.setRelease (slotCode k)) (.u32 r)

end Sys2Proof.Machine
end

