-- ==== Sys2Proof/WellFormed.lean ====
section
/-! DEFINITION. Which commands have legal fields (30_encoding.md R92, R94). -/

namespace Sys2Proof

/-- A used slot field is 0..3 (R94). -/
def slotLegal (k : BitVec 4) : Bool := decide (k.toNat < 4)
/-- A flag is 0 or 1 (R92). -/
def flagLegal (sub : BitVec 4) : Bool := decide (sub.toNat < 2)
/-- A waveform, and likewise a filter type, is 0..2 (R92). -/
def threeLegal (sub : BitVec 4) : Bool := decide (sub.toNat < 3)
/-- A preset number is 0..3 (R92). -/
def presetLegal (sub : BitVec 4) : Bool := decide (sub.toNat < 4)

/-- "one row of rule R96 with legal fields" (R97). -/
def Instr.wellFormed : Instr → Bool
  | .nop => true
  | .clearErr => true
  | .softReset => true
  | .setIrqEn sub => flagLegal sub
  | .setMaxv => true
  | .setSeed => true
  | .setWave k sub => slotLegal k && threeLegal sub
  | .setFreq k => slotLegal k
  | .setRatio k => slotLegal k
  | .setAmp k => slotLegal k
  | .setFixed k sub => slotLegal k && flagLegal sub
  | .setDisabled k sub => slotLegal k && flagLegal sub
  | .setPresent k sub => slotLegal k && flagLegal sub
  | .setTargets k => slotLegal k
  | .setAttack k => slotLegal k
  | .setDecay k => slotLegal k
  | .setSustain k => slotLegal k
  | .setRelease k => slotLegal k
  | .setAtarget k => slotLegal k
  | .setDrtarget k => slotLegal k
  | .applyPreset sub => presetLegal sub
  | .setAmEnable sub => flagLegal sub
  | .setAmWave sub => threeLegal sub
  | .setAmFreq => true
  | .setAmAmp => true
  | .setPass sub => threeLegal sub
  | .noteOn => true
  | .noteOff => true
  | .pull => true

end Sys2Proof
end

