-- ==== Sys2Proof/Safety.lean ====
section
/-! DEFINITION. What a legal state of the block is (the legal values of 10_state.md R37 to R50), runs over a list of
bus events, interleavings of several host agents, and what a correctly rounded result is (R10). -/

namespace Sys2Proof.Machine

/-- Legal values of a template (R37); the masks are judged over all slots by `cyclic`. -/
abbrev TemplateOk (t : Template) : Prop :=
  inUnitRange t.amp = true ∧ inUnitRange t.sus = true ∧ isPositiveFinite t.atgt = true ∧
    isPositiveFinite t.drtgt = true

/-- A valid voice (R44): no generator state is 0 (R117, R118), an IDLE envelope is +0.0 (R178), the fade counter has
not passed FADE_LEN (R153). -/
abbrev VoiceOk (b : Build) (v : Voice) : Prop :=
  (∀ k ∈ Slot.all, (v.osc.get k).nz ≠ 0#32 ∧ ((v.osc.get k).est = .idle → (v.osc.get k).env = fZero)) ∧
    v.amNz ≠ 0#32 ∧ v.fade.toNat ≤ b.fadeLen.toNat

/-- The sizes a build fixes (R7, R43, R49) and the range of MAXV (R42). -/
abbrev State.SizesOk (s : State) : Prop :=
  s.build.Legal ∧ s.voices.length = s.build.vmax ∧ s.out.length = s.build.blockLen ∧
    1 ≤ s.maxv.toNat ∧ s.maxv.toNat ≤ s.build.vmax

/-- The error registers tell one story (R30, R31, R271, R274). -/
abbrev State.ErrorsOk (s : State) : Prop :=
  (s.err = false → s.errOvf = false ∧ s.errCode = 0#8 ∧ s.errCmd = 0#32) ∧
    (s.err = true → 1 ≤ s.errCode.toNat ∧ s.errCode.toNat ≤ 5)

/-- Legal configuration (R37 to R39) with an acyclic routing (R204). -/
abbrev State.ConfigOk (s : State) : Prop :=
  (∀ k ∈ Slot.all, TemplateOk (s.templates.get k)) ∧ cyclic s.templates = false ∧
    inUnitRange s.tremolo.amp = true ∧ cutoffLegal s.pass.cutoff = true

/-- The voice table: sequence numbers are distinct and below VSEQ (R44, R50), and every voice is legal. -/
abbrev State.VoicesOk (s : State) : Prop :=
  (∀ v ∈ validVoices s.voices, VoiceOk s.build v ∧ v.seq.toNat < s.vseq.toNat) ∧
    ((validVoices s.voices).map (·.seq)).Nodup

/-- A legal state of the block. -/
abbrev State.Inv (s : State) : Prop := s.SizesOk ∧ s.ErrorsOk ∧ s.ConfigOk ∧ s.VoicesOk

/-- The graph of the present slots has no directed cycle (R204), in the words of R210: no slot is reachable from
itself through one or more edges. -/
def Acyclic (ts : Quad Template) : Prop := ∀ k, ¬ Relation.TransGen (fun a b => edge ts a b = true) k k

/-- Voice slot `i` exists and is invalid; nothing is said of its other fields (R45). -/
def FreeSlot (vs : List Voice) (i : Nat) : Prop := ∃ u, vs[i]? = some u ∧ u.valid = false

/-- Voice slot `i` holds the valid voice `v`. -/
def HoldsVoice (vs : List Voice) (i : Nat) (v : Voice) : Prop := vs[i]? = some v ∧ v.valid = true

/-- `r` is the exact value `num / den` (in units of 2^-1074, `den` above 0) "rounded to nearest with ties to even" (R10):
finite when the exact value lies within MAXFINITE; a finite `r` is nearest; and where another value is as near, the
significand of `r` is even. -/
def RoundsTo (num : Int) (den : Nat) (r : F64) : Prop :=
  (num.natAbs ≤ fMag fMaxFinite * den → fIsFinite r = true) ∧
  (fIsFinite r = true → ∀ z : F64, fIsFinite z = true →
    (fInt r * den - num).natAbs ≤ (fInt z * den - num).natAbs ∧
    ((fInt r * den - num).natAbs = (fInt z * den - num).natAbs → fInt z ≠ fInt r → r.getLsbD 0 = false))

/-- Whether OP is one of the 29 of R96. -/
def opListed (op : Nat) : Bool :=
  decide (op ≤ 0x05) || (decide (0x10 ≤ op) && decide (op ≤ 0x1D)) || op == 0x20 ||
    (decide (0x30 ≤ op) && decide (op ≤ 0x33)) || op == 0x38 || op == 0x40 || op == 0x41 || op == 0x50

/-- Whether a command uses the slot field: the column K of R96. -/
def opTakesSlot (op : Nat) : Bool := decide (0x10 ≤ op) && decide (op ≤ 0x1D)

/-- How many values of S a command defines, from 0 up: the column S of R96 with the ranges of R92 and R94 (waveform and
filter type 3, flag 2, preset 4, and 1 where S must be 0). -/
def opSubValues (op : Nat) : Nat :=
  if op = 0x10 ∨ op = 0x31 ∨ op = 0x38 then 3
  else if op = 0x03 ∨ op = 0x14 ∨ op = 0x15 ∨ op = 0x16 ∨ op = 0x30 then 2
  else if op = 0x20 then 4
  else 1

/-- The state after a list of bus events, each performed to completion before the next (R62, R71). -/
def runBus : List BusEvent → State → Result
  | [], s => .next s
  | e :: es, s =>
    match busEvent e s with
    | .next t => runBus es t
    | .fault r => .fault r
    | .refused r => .refused r

/-- `merged` is an interleaving of the accesses of several host agents, each agent's own in order (R71, R307). -/
inductive Interleaving : List (List BusEvent) → List BusEvent → Prop where
  /-- Every agent has finished. -/
  | done {agents : List (List BusEvent)} (h : ∀ es ∈ agents, es = []) : Interleaving agents []
  /-- The agent between `before` and `after` makes its next access. -/
  | next {before after : List (List BusEvent)} {e : BusEvent} {es merged : List BusEvent}
      (h : Interleaving (before ++ es :: after) merged) :
      Interleaving (before ++ (e :: es) :: after) (e :: merged)

end Sys2Proof.Machine
end

