-- ==== Sys2Proof/Certificates/Slice0/Obligations.lean ====
section
/-! DEFINITION. Statements for the provers, from the numbered rules of spec/. -/

open Sys2Proof Sys2Proof.Machine

/-! ### Encoding (30_encoding.md) -/

/-- Every command, with every value of its fields, decodes from its own word. -/
def Obligations.DecodeOfEncode : Prop :=
  ∀ i : Instr, decode (encode i) = .ok i

/-- A word that decodes to a command is the word of that command: no bit of it is dropped. -/
def Obligations.EncodeOfDecode : Prop :=
  ∀ (w : Word) (i : Instr), decode w = .ok i → encode i = w

/-- Words written out from the patterns of R91 and R96. -/
def Obligations.SampleWordsDecode : Prop :=
  decode 0b00000000000000000001000100010000#32 = .ok (.setWave 1#4 1#4) ∧
  decode 0b00000000000000000000001100011011#32 = .ok (.setRelease 3#4) ∧
  decode 0b00000000000000000011000000100000#32 = .ok (.applyPreset 3#4) ∧
  decode 0b00000000000000000010000000111000#32 = .ok (.setPass 2#4) ∧
  decode 0b00000000000000000000000001000000#32 = .ok .noteOn ∧
  decode 0b00000000000000000000000001010000#32 = .ok .pull

/-- R95: exactly the listed ranges of OP are illegal, and such a word raises ILLEGAL_OPCODE with no other effect,
whatever its other bits. -/
def Obligations.IllegalOpcodesAreRaised : Prop :=
  ∀ (w : Word) (s : State),
    let op := w.toNat % 256
    ((0x06 ≤ op ∧ op ≤ 0x0F) ∨ (0x1E ≤ op ∧ op ≤ 0x1F) ∨ (0x21 ≤ op ∧ op ≤ 0x2F) ∨ (0x34 ≤ op ∧ op ≤ 0x37) ∨
        (0x39 ≤ op ∧ op ≤ 0x3F) ∨ (0x42 ≤ op ∧ op ≤ 0x4F) ∨ (0x51 ≤ op ∧ op ≤ 0xFF) →
      runCommand w s = .next (raiseError .illegalOpcode w s)) ∧
    (decode w = .error .illegalOpcode → opListed op = false)

/-- R94 with the order of R273: for a listed OP, RSV not 0, an unused K not 0, or an S outside the defined values raises
RESERVED_FIELD; with those fields legal, a used K in 4..15 raises BAD_SLOT. -/
def Obligations.FieldChecksAreRaised : Prop :=
  ∀ (w : Word) (s : State),
    let op := w.toNat % 256
    let k := w.toNat / 256 % 16
    let sub := w.toNat / 4096 % 16
    let rsv := w.toNat / 65536
    opListed op = true →
    (rsv ≠ 0 ∨ (opTakesSlot op = false ∧ k ≠ 0) ∨ opSubValues op ≤ sub →
      runCommand w s = .next (raiseError .reservedField w s)) ∧
    (rsv = 0 ∧ sub < opSubValues op ∧ opTakesSlot op = true ∧ 4 ≤ k →
      runCommand w s = .next (raiseError .badSlot w s))

/-- R97: a decoder is total; a word whose OP is listed, whose RSV is 0 and whose fields are in range names a well-formed
command, and no other word does. -/
def Obligations.LegalWordsAreWellFormedCommands : Prop :=
  ∀ w : Word,
    (∃ i, decode w = .ok i ∧ i.wellFormed = true) ↔
      (opListed (w.toNat % 256) = true ∧ w.toNat / 65536 = 0 ∧
        w.toNat / 4096 % 16 < opSubValues (w.toNat % 256) ∧
        (if opTakesSlot (w.toNat % 256) = true then w.toNat / 256 % 16 < 4 else w.toNat / 256 % 16 = 0))

/-! ### The bus (20_memory.md) -/

/-- A step runs the decoded command: when the next access writes `w` to CMD and `w` decodes to `i`, the step is `exec`
of `i`, the access taken off the bus and answered. The queue `bus` and the answer `resp` are the model's choice (log
entry 2). -/
def Obligations.StepRunsDecodedCommand : Prop :=
  ∀ (s : State) (w : Word) (i : Instr) (rest : List BusEvent),
    s.bus = .write 0x0010#16 4 w :: rest → decode w = .ok i →
      step s = exec i { s with bus := rest, resp := .writeDone }

/-- R63: an access of another size or at a misaligned address is refused and there is no next state. The queue `bus`
is the model's choice (log entry 2), the refusal the spec's ("A model refuses such an access"). -/
def Obligations.UndefinedAccessIsRefused : Prop :=
  ∀ (s : State) (a : Addr) (size : Nat) (v : Word) (rest : List BusEvent),
    (size ≠ 4 ∨ a.toNat % 4 ≠ 0) →
      (s.bus = .read a size :: rest → step s = .refused .busError) ∧
      (s.bus = .write a size v :: rest → step s = .refused .busError)

/-- R68, R69: a read changes nothing but the answer on the bus; a write of ARG0 or ARG1 only stores the value; a write
to any other address but CMD is ignored and raises no error. The queue `bus` and the answer `resp` are the model's
choice (log entry 2). -/
def Obligations.ReadsAndRegisterWrites : Prop :=
  ∀ (s : State) (a : Addr) (v : Word) (rest : List BusEvent), a.toNat % 4 = 0 →
    (s.bus = .read a 4 :: rest → step s = .next { s with bus := rest, resp := .readData (readWord s a) }) ∧
    (s.bus = .write a 4 v :: rest → a ≠ 0x0010#16 →
      step s = .next
        (if a = 0x0014#16 then { s with bus := rest, resp := .writeDone, arg0 := v }
         else if a = 0x0018#16 then { s with bus := rest, resp := .writeDone, arg1 := v }
         else { s with bus := rest, resp := .writeDone }))

/-- R26 to R36, R68: what every register of the map R66 reads as: the fields of STATUS (bit 3 the level `ERR and IRQ_EN` of
R276) and PARAM and the zeros between them, and 0 at CMD and at every reserved address. -/
def Obligations.RegisterMapReads : Prop :=
  ∀ s : State,
    readWord s 0x0000#16 = 0x50530007#32 ∧
    (voiceCount s.voices ≤ 255 →
      (readWord s 0x0004#16).toNat =
        (if s.err then 1 else 0) + 2 * (if s.errOvf then 1 else 0) + 4 * (if s.irqEn then 1 else 0) +
          8 * (if s.err ∧ s.irqEn then 1 else 0) + 256 * (s.voices.filter (·.valid)).length) ∧
    (readWord s 0x0008#16).toNat = s.errCode.toNat ∧ readWord s 0x000C#16 = s.errCmd ∧ readWord s 0x0010#16 = 0#32 ∧
    readWord s 0x0014#16 = s.arg0 ∧ readWord s 0x0018#16 = s.arg1 ∧ readWord s 0x001C#16 = s.blockCount ∧
    (s.build.Legal →
      (readWord s 0x0020#16).toNat = s.build.blockLen + 65536 * s.build.vmax + 16777216 * 4) ∧
    (readWord s 0x0024#16).toNat = s.build.fadeLen.toNat ∧ (readWord s 0x0028#16).toNat = s.maxv.toNat ∧
    readWord s 0x002C#16 = s.noiseSeed ∧
    (∀ a : Addr, (0x30 ≤ a.toNat ∧ a.toNat < 0x8000) ∨ 0x8000 + 8 * s.build.blockLen ≤ a.toNat → readWord s a = 0#32)

/-- R65, R67: the two words of every output sample, low word first. -/
def Obligations.OutWindowReads : Prop :=
  ∀ (s : State) (i : Nat) (x : F64), s.build.Legal → i < s.build.blockLen → s.out[i]? = some x →
    readWord s (BitVec.ofNat 16 (0x8000 + 8 * i)) = x.extractLsb' 0 32 ∧
    readWord s (BitVec.ofNat 16 (0x8000 + 8 * i + 4)) = x.extractLsb' 32 32

/-- R298: what a host reads after reset, for every legal build. -/
def Obligations.ResetReads : Prop :=
  ∀ b : Build, b.Legal →
    readWord (State.resetFor b) 0x0000#16 = 0x50530007#32 ∧
    readWord (State.resetFor b) 0x0004#16 = 0#32 ∧
    (readWord (State.resetFor b) 0x0020#16).toNat = b.blockLen + 65536 * b.vmax + 16777216 * 4 ∧
    (readWord (State.resetFor b) 0x0024#16).toNat = b.fadeLen.toNat ∧
    readWord (State.resetFor b) 0x0028#16 = BitVec.ofNat 32 b.vmax ∧
    readWord (State.resetFor b) 0x002C#16 = 0x2545F491#32 ∧
    (∀ a : Addr, a.toNat % 4 = 0 → a ≠ 0x0000#16 → a ≠ 0x0020#16 → a ≠ 0x0024#16 → a ≠ 0x0028#16 →
      a ≠ 0x002C#16 → readWord (State.resetFor b) a = 0#32)

/-- R71: each access observes the effect of every access before it and of none after it: the run of a list of accesses
is the run of its first part followed by the run of the rest from the state reached, and as many steps as there are
accesses to come run exactly the accesses on the bus. The queue `bus` is the model's choice (log entry 2). -/
def Obligations.AccessesRunInOrder : Prop :=
  (∀ (first rest : List BusEvent) (s t : State),
    runBus first s = .next t → runBus (first ++ rest) s = runBus rest t) ∧
  (∀ (es : List BusEvent) (s t : State), runBus es { s with bus := [] } = .next t →
    (Host.Core.run Sys2Proof.core es.length ({ s with bus := es } : State) : Result) = .next t)

/-- R307: two hosts that each write an operand and a command can be interleaved so that one command executes with the
other's operand. The operands are of the two hosts' NOTE_ONs; one order gives notes 1 and 2, another 2 and 2.
`State.reset` is that of the build of log entry 1 (a choice), but MAXV >= 2 is all the example needs. -/
def Obligations.HostsCanMixOperands : Prop :=
  ∃ m₁ m₂ t₁ t₂,
    Interleaving [asmLine .noteOn (.u32 1#32), asmLine .noteOn (.u32 2#32)] m₁ ∧
    Interleaving [asmLine .noteOn (.u32 1#32), asmLine .noteOn (.u32 2#32)] m₂ ∧
    runBus m₁ State.reset = .next t₁ ∧ runBus m₂ State.reset = .next t₂ ∧
    (validVoices t₁.voices).map (·.note) = [1#32, 2#32] ∧
    (validVoices t₂.voices).map (·.note) = [2#32, 2#32]

/-- R101: the bus writes of an assembly line put its operand into ARG0 and ARG1 and then run its command. The answer
`resp` is the model's choice (log entry 2). -/
def Obligations.AssemblyLineRunsItsCommand : Prop :=
  ∀ (i : Instr) (s : State),
    runBus (asmLine i .absent) s = exec i { s with resp := .writeDone } ∧
    (∀ v : Word, runBus (asmLine i (.u32 v)) s = exec i { s with arg0 := v, resp := .writeDone }) ∧
    (∀ x : F64, runBus (asmLine i (.f64 x)) s =
      exec i { s with arg0 := x.extractLsb' 0 32, arg1 := x.extractLsb' 32 32, resp := .writeDone }) ∧
    (∀ m : BitVec 4, runBus (asmLine i (.mask m)) s =
      exec i { s with arg0 := BitVec.ofNat 32 m.toNat, resp := .writeDone })

/-! ### Errors (60_exceptions.md) -/

/-- R274, R278: the first error sets ERR, ERRCODE and ERRCMD; an error while ERR is set only sets ERR_OVF. -/
def Obligations.ErrorProcedure : Prop :=
  ∀ (c : ErrCode) (w : Word) (s : State),
    (s.err = false →
      raiseError c w s =
        { s with
          err := true, errCmd := w,
          errCode := match c with
            | .illegalOpcode => 1#8 | .reservedField => 2#8 | .badSlot => 3#8 | .badValue => 4#8
            | .routingCycle => 5#8 }) ∧
    (s.err = true → raiseError c w s = { s with errOvf := true })

/-- R275: a command that touches the error registers, other than CLEAR_ERR and SOFT_RESET, has been rejected and has had
no effect but the error procedure with its own word. -/
def Obligations.RejectedCommandsHaveNoOtherEffect : Prop :=
  ∀ (i : Instr) (s t : State), exec i s = .next t → i ≠ .clearErr → i ≠ .softReset →
    (t.err = s.err ∧ t.errOvf = s.errOvf ∧ t.errCode = s.errCode ∧ t.errCmd = s.errCmd) ∨
      ∃ c, t = raiseError c (encode i) s

/-- R272: which commands can raise which error, in every state whose routing is acyclic (R204): a decoded command that is
rejected is one of the rule's list for its error code; ROUTING_CYCLE from SET_PRESENT needs S = 1. -/
def Obligations.RaisedErrorsAreListed : Prop :=
  ∀ (i : Instr) (s t : State), Acyclic s.templates → s.err = false → exec i s = .next t → t.err = true →
    (t.errCode = 2#8 ∧ 1 < opSubValues ((encode i).toNat % 256)) ∨
    (t.errCode = 3#8 ∧ opTakesSlot ((encode i).toNat % 256) = true) ∨
    (t.errCode = 4#8 ∧ (encode i).toNat % 256 ∈ [0x13, 0x1A, 0x33, 0x1C, 0x1D, 0x17, 0x38, 0x04]) ∨
    (t.errCode = 5#8 ∧ ((encode i).toNat % 256 = 0x17 ∨ (encode i).toNat % 65536 / 4096 = 1 ∧ (encode i).toNat % 256 = 0x16))

/-! ### System commands (45_system.md, 70_reset_and_hazards.md) -/

/-- R257, R258, R260, R261: NOP, CLEAR_ERR, SET_IRQ_EN and SET_SEED. -/
def Obligations.SystemCommandsComplete : Prop :=
  ∀ s : State,
    exec .nop s = .next s ∧
    exec .clearErr s = .next { s with err := false, errOvf := false, errCode := 0#8, errCmd := 0#32 } ∧
    exec .setSeed s = .next { s with noiseSeed := s.arg0 } ∧
    (∀ f : Bool, exec (.setIrqEn (if f then 1#4 else 0#4)) s = .next { s with irqEn := f }) ∧
    (∀ sub : BitVec 4, 2 ≤ sub.toNat →
      exec (.setIrqEn sub) s = .next (raiseError .reservedField (encode (.setIrqEn sub)) s))

/-- R259, R297: SOFT_RESET and the reset input put every piece of state of the block into its reset value; only the
build, and the accesses still to come on the bus, stay. The reset input as an event of the queue `bus` is the model's
choice (log entries 2 and 9). -/
def Obligations.BothResetsGiveTheResetState : Prop :=
  ∀ (s : State) (rest : List BusEvent),
    exec .softReset s = .next { State.resetFor s.build with bus := s.bus, resp := s.resp } ∧
    (s.bus = .rst :: rest → step s = .next { State.resetFor s.build with bus := rest })

/-- R242: SET_MAXV. -/
def Obligations.SetMaxvChecksItsRange : Prop :=
  ∀ s : State, s.build.vmax ≤ 255 →
    (1 ≤ s.arg0.toNat ∧ s.arg0.toNat ≤ s.build.vmax →
      exec .setMaxv s = .next { s with maxv := BitVec.ofNat 8 s.arg0.toNat }) ∧
    (s.arg0.toNat < 1 ∨ s.build.vmax < s.arg0.toNat →
      exec .setMaxv s = .next (raiseError .badValue 0x00000004#32 s))

/-! ### Slot commands (40_oscillators.md, 42_envelope.md) -/

/-- R125, R126, R127, R129, R130, R185, R186, R188: each of these commands writes its field of slot K (from S, or from
ARG0) and changes nothing else. -/
def Obligations.SlotCommandsSetTheirField : Prop :=
  ∀ (j : Slot) (s : State),
    (∀ w : Waveform, exec (.setWave (slotCode j) (waveCode w)) s =
      .next { s with templates := s.templates.set j { s.templates.get j with wave := w } }) ∧
    (∀ f : Bool, exec (.setFixed (slotCode j) (flagCode f)) s =
      .next { s with templates := s.templates.set j { s.templates.get j with fixed := f } }) ∧
    (∀ f : Bool, exec (.setDisabled (slotCode j) (flagCode f)) s =
      .next { s with templates := s.templates.set j { s.templates.get j with disabled := f } }) ∧
    exec (.setFreq (slotCode j)) s =
      .next { s with templates := s.templates.set j { s.templates.get j with freq := s.arg0 } } ∧
    exec (.setRatio (slotCode j)) s =
      .next { s with templates := s.templates.set j { s.templates.get j with ratio := s.arg0 } } ∧
    exec (.setAttack (slotCode j)) s =
      .next { s with templates := s.templates.set j { s.templates.get j with att := s.arg0 } } ∧
    exec (.setDecay (slotCode j)) s =
      .next { s with templates := s.templates.set j { s.templates.get j with dec := s.arg0 } } ∧
    exec (.setRelease (slotCode j)) s =
      .next { s with templates := s.templates.set j { s.templates.get j with rel := s.arg0 } }

/-- R128, R187, R157: SET_AMP, SET_SUSTAIN and SET_AM_AMP accept exactly the encodings of [0.0, 1.0], which are those of
+0.0 to 1.0 and -0.0, and store them bit for bit; every other operand, NaN included, raises BAD_VALUE. -/
def Obligations.UnitRangeCommands : Prop :=
  ∀ (j : Slot) (s : State) (x : F64), x = s.arg1 ++ s.arg0 →
    (x.toNat ≤ 0x3FF0000000000000 ∨ x.toNat = 0x8000000000000000 →
      exec (.setAmp (slotCode j)) s =
        .next { s with templates := s.templates.set j { s.templates.get j with amp := x } } ∧
      exec (.setSustain (slotCode j)) s =
        .next { s with templates := s.templates.set j { s.templates.get j with sus := x } } ∧
      exec .setAmAmp s = .next { s with tremolo := { s.tremolo with amp := x } }) ∧
    (¬ (x.toNat ≤ 0x3FF0000000000000 ∨ x.toNat = 0x8000000000000000) →
      exec (.setAmp (slotCode j)) s = .next (raiseError .badValue (encode (.setAmp (slotCode j))) s) ∧
      exec (.setSustain (slotCode j)) s = .next (raiseError .badValue (encode (.setSustain (slotCode j))) s) ∧
      exec .setAmAmp s = .next (raiseError .badValue 0x00000033#32 s))

/-- R189, R190: SET_ATARGET and SET_DRTARGET accept exactly the encodings of the finite values above 0.0. -/
def Obligations.TargetOffsetCommands : Prop :=
  ∀ (j : Slot) (s : State) (x : F64), x = s.arg1 ++ s.arg0 →
    (1 ≤ x.toNat ∧ x.toNat ≤ 0x7FEFFFFFFFFFFFFF →
      exec (.setAtarget (slotCode j)) s =
        .next { s with templates := s.templates.set j { s.templates.get j with atgt := x } } ∧
      exec (.setDrtarget (slotCode j)) s =
        .next { s with templates := s.templates.set j { s.templates.get j with drtgt := x } }) ∧
    (x.toNat < 1 ∨ 0x7FEFFFFFFFFFFFFF < x.toNat →
      exec (.setAtarget (slotCode j)) s = .next (raiseError .badValue (encode (.setAtarget (slotCode j))) s) ∧
      exec (.setDrtarget (slotCode j)) s = .next (raiseError .badValue (encode (.setDrtarget (slotCode j))) s))

/-! ### Tremolo and pass-filter commands (41_modulation_filters.md) -/

/-- R154, R155, R156: SET_AM_ENABLE, SET_AM_WAVE and SET_AM_FREQ. -/
def Obligations.TremoloCommandsSetTheirField : Prop :=
  ∀ s : State,
    (∀ f : Bool, exec (.setAmEnable (flagCode f)) s = .next { s with tremolo := { s.tremolo with en := f } }) ∧
    (∀ w : Waveform, exec (.setAmWave (waveCode w)) s = .next { s with tremolo := { s.tremolo with wave := w } }) ∧
    exec .setAmFreq s = .next { s with tremolo := { s.tremolo with freq := s.arg0 } }

/-- R150, R151: SET_PASS; type none keeps the cutoff and the coefficients, types low and high compute them, and a cutoff
outside 1..0x7FFFFFFF raises BAD_VALUE for low and high only. -/
def Obligations.SetPassComputesCoefficients : Prop :=
  ∀ s : State,
    let kk := Config.fnTan (fMul 0x400921FB54442D18#64 (fMul (fOfNat s.arg0.toNat) 0x3DF0000000000000#64))
    let t := fAdd 0x3FF0000000000000#64 kk
    exec (.setPass 0#4) s = .next { s with pass := { s.pass with type := .none } } ∧
    (1 ≤ s.arg0.toNat ∧ s.arg0.toNat ≤ 0x7FFFFFFF →
      exec (.setPass 1#4) s =
        .next { s with pass := ⟨.low, s.arg0, fDiv kk t, fDiv kk t, fDiv (fSub kk 0x3FF0000000000000#64) t⟩ } ∧
      exec (.setPass 2#4) s =
        .next { s with
          pass := ⟨.high, s.arg0, fDiv 0x3FF0000000000000#64 t, fNeg (fDiv 0x3FF0000000000000#64 t),
            fDiv (fSub kk 0x3FF0000000000000#64) t⟩ }) ∧
    (s.arg0.toNat < 1 ∨ 0x7FFFFFFF < s.arg0.toNat →
      exec (.setPass 1#4) s = .next (raiseError .badValue 0x00001038#32 s) ∧
      exec (.setPass 2#4) s = .next (raiseError .badValue 0x00002038#32 s))

/-! ### Routing (43_routing.md) -/

/-- R210: the cycle check of the model finds exactly the graphs in which some slot is reachable from itself through one
or more edges. -/
def Obligations.CycleCheckIsExact : Prop :=
  ∀ ts : Quad Template, cyclic ts = true ↔ ∃ k, Relation.TransGen (fun a b => edge ts a b = true) k k

/-- R211: SET_PRESENT is accepted exactly when the graph it leaves is acyclic, and otherwise raises ROUTING_CYCLE; removing
a slot from an acyclic graph leaves one. -/
def Obligations.SetPresentKeepsRoutingAcyclic : Prop :=
  ∀ (j : Slot) (f : Bool) (s : State),
    let ts := s.templates.set j { s.templates.get j with present := f }
    (Acyclic ts → exec (.setPresent (slotCode j) (flagCode f)) s = .next { s with templates := ts }) ∧
    (¬ Acyclic ts → exec (.setPresent (slotCode j) (flagCode f)) s =
      .next (raiseError .routingCycle (encode (.setPresent (slotCode j) (flagCode f))) s)) ∧
    (f = false → Acyclic s.templates → Acyclic ts)

/-- R212: SET_TARGETS checks ARG0 bits 31:4 first, then the graph it would leave. -/
def Obligations.SetTargetsKeepsRoutingAcyclic : Prop :=
  ∀ (j : Slot) (s : State),
    let ts := s.templates.set j { s.templates.get j with targets := BitVec.ofNat 4 s.arg0.toNat }
    (s.arg0.toNat < 16 ∧ Acyclic ts → exec (.setTargets (slotCode j)) s = .next { s with templates := ts }) ∧
    (s.arg0.toNat < 16 ∧ ¬ Acyclic ts →
      exec (.setTargets (slotCode j)) s = .next (raiseError .routingCycle (encode (.setTargets (slotCode j))) s)) ∧
    (16 ≤ s.arg0.toNat →
      exec (.setTargets (slotCode j)) s = .next (raiseError .badValue (encode (.setTargets (slotCode j))) s))

/-- R213: APPLY_PRESET overwrites the four masks, changes nothing else, and leaves an acyclic routing under any PRESENT
bits. -/
def Obligations.PresetsWriteAcyclicMasks : Prop :=
  ∀ (s : State) (sub : BitVec 4) (masks : Quad (BitVec 4)),
    (sub = 0#4 ∧ masks = ⟨0b0010#4, 0b0100#4, 0b1000#4, 0b0000#4⟩) ∨ (sub = 1#4 ∧ masks = ⟨0#4, 0#4, 0#4, 0#4⟩) ∨
      (sub = 2#4 ∧ masks = ⟨0b0010#4, 0b0000#4, 0b1000#4, 0b0000#4⟩) ∨
      (sub = 3#4 ∧ masks = ⟨0b1000#4, 0b1000#4, 0b1000#4, 0b0000#4⟩) →
    ∃ ts, exec (.applyPreset sub) s = .next { s with templates := ts } ∧ Acyclic ts ∧
      ∀ k, ts.get k = { s.templates.get k with targets := masks.get k }

/-- R205, R206: in an acyclic routing every slot's node output is its sample-mode block when it has no parent, and its
FM node over its parents' node outputs otherwise. -/
def Obligations.NodeOutputsFollowTheGraph : Prop :=
  ∀ (ts : Quad Template) (outs : Quad SlotOut) (k : Slot), Acyclic ts →
    (parents ts k = [] → slotNode ts outs k = (outs.get k).sample) ∧
    (parents ts k ≠ [] →
      slotNode ts outs k = fmBlock (outs.get k) (modulator ((parents ts k).map (slotNode ts outs))))

/-- R209: with all four slots present the presets give the source's chains; `slotNode` of D (and of B) written out. -/
def Obligations.PresetStructures : Prop :=
  ∀ (s t : State) (o : Quad SlotOut), (∀ k, (s.templates.get k).present = true) →
    (exec (.applyPreset 0#4) s = .next t →
      carriers t.templates = [.D] ∧
      slotNode t.templates o .D = fmBlock o.d (fmBlock o.c (fmBlock o.b o.a.sample))) ∧
    (exec (.applyPreset 1#4) s = .next t →
      carriers t.templates = [.A, .B, .C, .D] ∧ ∀ k, slotNode t.templates o k = (o.get k).sample) ∧
    (exec (.applyPreset 2#4) s = .next t →
      carriers t.templates = [.B, .D] ∧ slotNode t.templates o .B = fmBlock o.b o.a.sample ∧
      slotNode t.templates o .D = fmBlock o.d o.c.sample) ∧
    (exec (.applyPreset 3#4) s = .next t →
      carriers t.templates = [.D] ∧
      slotNode t.templates o .D = fmBlock o.d (sumFilter [o.a.sample, o.b.sample, o.c.sample]))

/-! ### Oscillators and noise (40_oscillators.md) -/

/-- R112, R113, R117, R121, R153, R233: the state of a voice after a block. Every slot's phase has advanced by N increments,
present or not, disabled or not, and the tremolo's by N times AM_FREQ; a noise generator has stepped once per sample of an
oscillator whose waveform is noise, and not otherwise; stage and value are those of the slot's envelope block; the fade
counter saturates at FADE_LEN and never decreases; sequence number and note stay. -/
def Obligations.VoiceStateAfterBlock : Prop :=
  ∀ (s : State) (v : Voice) (k : Slot),
    let t := s.templates.get k
    let inc := if t.fixed then t.freq.toNat else v.note.toNat * t.ratio.toNat / 2 ^ 16 % 2 ^ 32
    let after := (voiceBlock s v).2
    let e := envelopeBlock t s.build.blockLen (v.osc.get k).est (v.osc.get k).env
    (after.osc.get k).ph.toNat = ((v.osc.get k).ph.toNat + s.build.blockLen * inc) % 2 ^ 32 ∧
    after.amPh.toNat = (v.amPh.toNat + s.build.blockLen * s.tremolo.freq.toNat) % 2 ^ 32 ∧
    (after.osc.get k).nz =
      (if t.wave = .noise then noiseStep^[s.build.blockLen] (v.osc.get k).nz else (v.osc.get k).nz) ∧
    after.amNz = (if s.tremolo.wave = .noise then noiseStep^[s.build.blockLen] v.amNz else v.amNz) ∧
    (after.osc.get k).est = e.est ∧ (after.osc.get k).env = e.env ∧
    (v.fade.toNat ≤ s.build.fadeLen.toNat →
      after.fade.toNat = min (v.fade.toNat + s.build.blockLen) s.build.fadeLen.toNat ∧
      v.fade.toNat ≤ after.fade.toNat) ∧
    after.seq = v.seq ∧ after.note = v.note

/-- R226, R207, R233: the output block of a voice: the carriers' node outputs summed (+0.0 without a carrier), then the
tremolo, the pass filter from the voice's memory, and the fade; the oscillators take the envelope blocks as they are. -/
def Obligations.VoiceOutputPipeline : Prop :=
  ∀ (s : State) (v : Voice),
    let n := s.build.blockLen
    let osc := Quad.ofFn fun k => slotOscillator (s.templates.get k) v.note (v.osc.get k)
      (envelopeBlock (s.templates.get k) n (v.osc.get k).est (v.osc.get k).env).block n
    let am := (waveBlock s.tremolo.wave (phaseBlock v.amPh s.tremolo.freq n) v.amNz).1.map (fMul s.tremolo.amp)
    let out := fun vr => passNode s.pass (tremoloNode s.tremolo.en vr am) v.z
    let vr := sumFilter ((carriers s.templates).map (slotNode s.templates osc))
    (carriers s.templates = [] → (voiceBlock s v).1 = fadeNode s.build.fadeLen v.fade (out (List.replicate n 0#64)).1 ∧
      (voiceBlock s v).2.z = (out (List.replicate n 0#64)).2) ∧
    (carriers s.templates ≠ [] → (voiceBlock s v).1 = fadeNode s.build.fadeLen v.fade (out vr).1 ∧
      (voiceBlock s v).2.z = (out vr).2)

/-- R117: a generator step is the rule's three shifts, 13 left, 17 right and 5 left, each modulo 2^32 and folded in by
exclusive or; it is one to one; a non-zero state never becomes zero; and a noise sample is exactly `x * 2^-31 - 1` (in units of
2^-1074), so it lies in [-1.0, 1.0). -/
def Obligations.NoiseGeneratorIsExact : Prop :=
  (∀ x : Word,
    let x1 := x ^^^ BitVec.ofNat 32 (x.toNat * 2 ^ 13 % 2 ^ 32)
    let x2 := x1 ^^^ BitVec.ofNat 32 (x1.toNat / 2 ^ 17)
    noiseStep x = x2 ^^^ BitVec.ofNat 32 (x2.toNat * 2 ^ 5 % 2 ^ 32)) ∧
  (∀ x y : Word, noiseStep x = noiseStep y → x = y) ∧
  (∀ x : Word, x ≠ 0#32 → noiseStep x ≠ 0#32) ∧
  (∀ x : Word, fIsFinite (noiseSample x) = true ∧
    fInt (noiseSample x) = ((x.toNat : Int) - 2 ^ 31) * 2 ^ 1043)

/-- R118: the seed of generator `g` of a voice. -/
def Obligations.NoiseSeedFormula : Prop :=
  ∀ (base : Word) (seq : BitVec 64) (g : Nat), g ≤ 4 →
    let seed := (base.toNat + 0x9E3779B9 * ((5 * (seq.toNat % 2 ^ 32) + g + 1) % 2 ^ 32)) % 2 ^ 32
    (noiseSeedFor base seq g).toNat = if seed = 0 then 1 else seed

/-- R115, R116, R117, with the angle of R114: sample `i` of a block of `n`, whose phase is `ph + i * inc` mod 2^32 (R113). A
sine is FN_SIN of the angle `TWO_PI * (f64(p) * 2^-32)`, a square the sign of the phase's top bit, and noise the generator
stepped `i + 1` times (stepped first, then read); the generator is left alone by the other two and has stepped `n` times after
noise. -/
def Obligations.WaveformSamples : Prop :=
  ∀ (ph inc nz : Word) (n i : Nat), i < n →
    let p := (ph.toNat + i * inc.toNat) % 2 ^ 32
    let wave := fun w => waveBlock w (phaseBlock ph inc n) nz
    (wave .sine).1[i]? = some (Config.fnSin (fMul 0x401921FB54442D18#64 (fMul (fOfNat p) 0x3DF0000000000000#64))) ∧
    (wave .square).1[i]? = some (if p < 0x80000000 then 0x3FF0000000000000#64 else 0xBFF0000000000000#64) ∧
    (wave .noise).1[i]? =
      some (fSub (fMul (fOfNat (noiseStep^[i + 1] nz).toNat) 0x3E00000000000000#64) 0x3FF0000000000000#64) ∧
    (wave .sine).2 = nz ∧ (wave .square).2 = nz ∧ (wave .noise).2 = noiseStep^[n] nz

/-- R119, R120, R122: what a slot gives for sample `i` of its block of `n`, from its envelope block `e`. Enabled, its sample
mode is `e[i] * w[i]`, `w` being its waveform (WaveformSamples), and its modulation amplitude `e[i]`; disabled, both are +0.0;
in either case the angle is `TWO_PI * (f64(p) * 2^-32)` (R114), and a disabled slot advances exactly as an enabled one. -/
def Obligations.SlotOutputsEnabledAndDisabled : Prop :=
  ∀ (t : Template) (note : Word) (o : OscState) (e : Block) (n i : Nat) (ei : F64), i < n → e[i]? = some ei →
    let inc := if t.fixed then t.freq.toNat else note.toNat * t.ratio.toNat / 2 ^ 16 % 2 ^ 32
    let w := (waveBlock t.wave (phaseBlock o.ph (phaseIncrement t note) n) o.nz).1
    let off := slotOscillator { t with disabled := true } note o e n
    let on := slotOscillator { t with disabled := false } note o e n
    (∀ wi, w[i]? = some wi → on.sample[i]? = some (fMul ei wi)) ∧ w.length = n ∧ on.ampl[i]? = some ei ∧
      on.angle[i]? = some (fMul 0x401921FB54442D18#64
        (fMul (fOfNat ((o.ph.toNat + i * inc) % 2 ^ 32)) 0x3DF0000000000000#64)) ∧
      off.sample[i]? = some 0#64 ∧ off.ampl[i]? = some 0#64 ∧ off.sample.length = n ∧ off.ampl.length = n ∧
      off.angle = on.angle ∧ off.ph = on.ph ∧ off.nz = on.nz

/-! ### Binary64 (00_scope.md) -/

/-- R10: a sum or a difference of finite values, and the value of an unsigned integer, is the exact result rounded to nearest,
ties to even: finite within MAXFINITE, nearest, and even where two values are as near (`RoundsTo`). -/
def Obligations.AdditionRoundsToNearest : Prop :=
  (∀ x y : F64, fIsFinite x = true → fIsFinite y = true →
    RoundsTo (fInt x + fInt y) 1 (fAdd x y) ∧ RoundsTo (fInt x - fInt y) 1 (fSub x y)) ∧
  (∀ u : Nat, RoundsTo (u * 2 ^ 1074) 1 (fOfNat u))

/-- R10: a product of finite values, and a quotient of finite values by one that is not zero, is the exact result rounded to
nearest, ties to even. In units of 2^-1074 the exact product is `X * Y / 2^1074` and the exact quotient `X * 2^1074 / Y`. -/
def Obligations.MultiplicationAndDivisionRoundToNearest : Prop :=
  ∀ x y : F64, fIsFinite x = true → fIsFinite y = true →
    RoundsTo (fInt x * fInt y) (2 ^ 1074) (fMul x y) ∧
    (fInt y ≠ 0 → RoundsTo ((fInt y).sign * fInt x * 2 ^ 1074) (fInt y).natAbs (fDiv x y))

/-- R146, R153: `1.0 * x` is `x`, bit for bit, for every `x` that is not NaN; so a sum of one block is the block. The
bits of a NaN are a free value (log entry 3). -/
def Obligations.MultiplyingByOneIsExact : Prop :=
  (∀ x : F64, fIsNaN x = false → fMul 0x3FF0000000000000#64 x = x) ∧
  (∀ b : Block, (∀ x ∈ b, fIsNaN x = false) → sumFilter [b] = b)

/-! ### Nodes (41_modulation_filters.md) -/

/-- R145: SumFilter, one sample: `g * (x_1 + x_2 + ... + x_n)` with `g = 1.0 / n`, added in the order given. -/
def Obligations.SumFilterSamples : Prop :=
  ∀ (x : Block) (xs : List Block) (i : Nat), i < x.length → (∀ b ∈ xs, b.length = x.length) →
    (sumFilter (x :: xs))[i]? =
      some (fMul (fDiv 0x3FF0000000000000#64 (fOfNat (xs.length + 1)))
        (xs.foldl (fun acc b => fAdd acc (b.getD i 0#64)) (x.getD i 0#64)))

/-- R147, R148: the pass filter, one sample at a time, and the memory it leaves; with no filter the block and the memory
pass unchanged. -/
def Obligations.PassFilterRecurrence : Prop :=
  ∀ (p : PassFilter) (z : F64),
    (∀ x : Block, p.type = .none → passNode p x z = (x, z)) ∧
    (p.type ≠ .none → passNode p [] z = ([], z) ∧
      ∀ (x : Block) (a : F64),
        let y := (passNode p x z).2
        let out := fAdd (fMul p.b0 a) y
        passNode p (x ++ [a]) z =
          ((passNode p x z).1 ++ [out], fSub (fMul p.b1 a) (fMul p.a1 out)))

/-- R141, R142, R143, R152: one sample of the tremolo node, of the FM node and of the anti-click node. The FM node is
`a * FN_COS(th + m)` whatever the waveform; the tremolo off and FADE_LEN 0 pass their input bit for bit. -/
def Obligations.TremoloFmAndFadeSamples : Prop :=
  (∀ (x am : Block) (i : Nat) (a b : F64), x[i]? = some a → am[i]? = some b →
    tremoloNode false x am = x ∧ (tremoloNode true x am)[i]? = some (fMul a (fAdd 0x3FF0000000000000#64 b))) ∧
  (∀ (o : SlotOut) (m : Block) (i : Nat) (a th b : F64), o.ampl[i]? = some a → o.angle[i]? = some th → m[i]? = some b →
    (fmBlock o m)[i]? = some (fMul a (Config.fnCos (fAdd th b)))) ∧
  (∀ (x : Block) (len c0 : BitVec 16) (i : Nat) (a : F64), x[i]? = some a →
    fadeNode 0#16 c0 x = x ∧
    (len ≠ 0#16 → (fadeNode len c0 x)[i]? =
      some (fMul (fDiv (fOfNat (min (c0.toNat + i) len.toNat)) (fOfNat len.toNat)) a)))

/-! ### Envelope (42_envelope.md) -/

/-- R176: sample `i` of a running stage is the recurrence applied `i + 1` times, emitted after its update. -/
def Obligations.EnvelopeRecurrence : Prop :=
  ∀ (base m env : F64) (n i : Nat),
    (i < n → (rampBlock base m n env).1[i]? = some ((fun e => fAdd base (fMul e m))^[i + 1] env)) ∧
    (rampBlock base m n env).2 = (fun e => fAdd base (fMul e m))^[n] env

/-- R172, R173, R174, R176 to R179: one block of a stage that is not instantaneous (R173: its length is not 0 and
T / (A + T) is not 1.0), from the multiplier `mult` and the ramp of the stage (`up`, `down`, `off`); the end test is applied
once, after the last sample. SUSTAIN holds the live level, IDLE gives +0.0. -/
def Obligations.EnvelopeStagesOfOneBlock : Prop :=
  ∀ (t : Template) (n : Nat) (env : F64),
    let sl := fMul t.amp t.sus
    let mult := fun (d : Word) (tgt : F64) =>
      Config.fnExp (fMul (fDiv 0x3FF0000000000000#64 (fOfNat d.toNat)) (Config.fnLn (fDiv tgt (fAdd t.amp tgt))))
    let up := rampBlock (fMul (fAdd t.amp t.atgt) (fSub 0x3FF0000000000000#64 (mult t.att t.atgt))) (mult t.att t.atgt) n env
    let down := rampBlock (fMul (fSub sl t.drtgt) (fSub 0x3FF0000000000000#64 (mult t.dec t.drtgt))) (mult t.dec t.drtgt) n env
    let off := rampBlock (fMul (fSub 0#64 t.drtgt) (fSub 0x3FF0000000000000#64 (mult t.rel t.drtgt))) (mult t.rel t.drtgt) n env
    (t.att ≠ 0#32 → fDiv t.atgt (fAdd t.amp t.atgt) ≠ 0x3FF0000000000000#64 → envelopeBlock t n .attack env =
      if fLe t.amp up.2 then ⟨up.1, .decay, t.amp⟩ else ⟨up.1, .attack, up.2⟩) ∧
    (t.dec ≠ 0#32 → fDiv t.drtgt (fAdd t.amp t.drtgt) ≠ 0x3FF0000000000000#64 → envelopeBlock t n .decay env =
      if fLe down.2 sl then ⟨down.1, .sustain, sl⟩ else ⟨down.1, .decay, down.2⟩) ∧
    (t.rel ≠ 0#32 → fDiv t.drtgt (fAdd t.amp t.drtgt) ≠ 0x3FF0000000000000#64 → envelopeBlock t n .release env =
      if fLe off.2 0#64 then ⟨off.1, .idle, 0#64⟩ else ⟨off.1, .release, off.2⟩) ∧
    envelopeBlock t n .sustain env = ⟨List.replicate n sl, .sustain, sl⟩ ∧
    envelopeBlock t n .idle env = ⟨List.replicate n 0#64, .idle, env⟩

/-- R173, R175: which stages are instantaneous (length 0, or T / (A + T) equal to 1.0, as it is for AMP +0.0 and -0.0 whatever
the length), and how a block passes them before its first sample: ATTACK goes on as DECAY from AMP, DECAY becomes SUSTAIN at
the sustain level, RELEASE becomes IDLE at +0.0; so an instantaneous ATTACK before an instantaneous DECAY is at the sustain
level from the first sample. -/
def Obligations.InstantaneousStagesArePassed : Prop :=
  ∀ (t : Template) (n : Nat) (env : F64),
    let level := ⟨List.replicate n (fMul t.amp t.sus), .sustain, fMul t.amp t.sus⟩
    let passed := fun (d : Word) (tgt : F64) => d = 0#32 ∨ fDiv tgt (fAdd t.amp tgt) = 0x3FF0000000000000#64
    (∀ (d : Word) (tgt : F64), instantaneous t d tgt = true ↔ passed d tgt) ∧
    (passed t.att t.atgt → envelopeBlock t n .attack env = envelopeBlock t n .decay t.amp) ∧
    (passed t.dec t.drtgt → envelopeBlock t n .decay env = level) ∧
    (passed t.att t.atgt → passed t.dec t.drtgt → envelopeBlock t n .attack env = level) ∧
    (passed t.rel t.drtgt → envelopeBlock t n .release env = ⟨List.replicate n 0#64, .idle, 0#64⟩) ∧
    (t.amp = 0#64 ∨ t.amp = 0x8000000000000000#64 →
      ∀ (d : Word) (tgt : F64), isPositiveFinite tgt = true → passed d tgt)

/-- R171, R177, R178, R179: a block never moves an envelope backwards through the stages, SUSTAIN is left only by a
release trigger, and IDLE is never left. -/
def Obligations.EnvelopeMovesForward : Prop :=
  ∀ (t : Template) (n : Nat) (est : Stage) (env : F64),
    let e := envelopeBlock t n est env
    (stageCode est).toNat ≤ (stageCode e.est).toNat ∧
    (e.est = .release → est = .release) ∧
    (e.est = .idle → est = .release ∨ est = .idle) ∧
    e.block.length = n

/-! ### Voices and the mixer (44_voice_mixer.md) -/

/-- R227, R229: NOTE_ON with fewer than MAXV voices takes the lowest-numbered free slot, gives the new voice its initial
state, and increments VSEQ; every other voice stays, every other free slot stays free, and nothing else changes. VSEQ =
2^64 - 1 is refused (log entry 6). -/
def Obligations.NoteOnTakesLowestFreeSlot : Prop :=
  ∀ s : State, s.vseq.toNat ≠ 2 ^ 64 - 1 → voiceCount s.voices < s.maxv.toNat → s.maxv.toNat ≤ s.voices.length →
    ∃ (vs : List Voice) (i : Nat) (v : Voice),
      exec .noteOn s = .next { s with voices := vs, vseq := s.vseq + 1#64 } ∧ vs.length = s.voices.length ∧
      FreeSlot s.voices i ∧ (∀ j < i, ∃ u, HoldsVoice s.voices j u) ∧ HoldsVoice vs i v ∧
      v.seq = s.vseq ∧ v.note = s.arg0 ∧ v.amPh = 0#32 ∧ v.amNz = noiseSeedFor s.noiseSeed s.vseq 4 ∧
      v.z = 0#64 ∧ v.fade = 0#16 ∧
      (∀ k, v.osc.get k = ⟨0#32, .attack, 0#64, noiseSeedFor s.noiseSeed s.vseq k.index⟩) ∧
      (∀ j ≠ i, FreeSlot s.voices j → FreeSlot vs j) ∧ (∀ j ≠ i, ∀ u, HoldsVoice s.voices j u → HoldsVoice vs j u)

/-- R227, R228, R229: NOTE_ON with MAXV or more voices evicts the oldest ones until MAXV - 1 are left, then takes the lowest
free slot and gives the new voice its initial state. Every evicted voice is older than every voice that stays, and those stay
as they were. VSEQ = 2^64 - 1 is refused (log entry 6); `Inv` is log entry 12. -/
def Obligations.NoteOnEvictsOldestFirst : Prop :=
  ∀ s : State, s.Inv → s.vseq.toNat ≠ 2 ^ 64 - 1 → s.maxv.toNat ≤ voiceCount s.voices →
    ∃ (vs : List Voice) (i : Nat) (v : Voice),
      exec .noteOn s = .next { s with voices := vs, vseq := s.vseq + 1#64 } ∧
      vs.length = s.voices.length ∧ voiceCount vs = s.maxv.toNat ∧
      HoldsVoice vs i v ∧ v.seq = s.vseq ∧ v.note = s.arg0 ∧ v.amPh = 0#32 ∧
      v.amNz = noiseSeedFor s.noiseSeed s.vseq 4 ∧ v.z = 0#64 ∧ v.fade = 0#16 ∧
      (∀ k, v.osc.get k = ⟨0#32, .attack, 0#64, noiseSeedFor s.noiseSeed s.vseq k.index⟩) ∧
      (∀ j < i, ∃ u, HoldsVoice vs j u) ∧
      (∀ j ≠ i, FreeSlot s.voices j → FreeSlot vs j) ∧
      (∀ j ≠ i, ∀ u : Voice, HoldsVoice vs j u → HoldsVoice s.voices j u) ∧
      (∀ (j : Nat) (u : Voice) (k : Nat) (w : Voice), HoldsVoice s.voices j u → ¬ HoldsVoice vs j u →
        HoldsVoice s.voices k w → HoldsVoice vs k w → u.seq.toNat < w.seq.toNat)

/-- 92_eei_decisions.md D44, R289: NOTE_ON is refused when VSEQ is 2^64 - 1, and only then from a legal state; it
never faults there. That it is refused is the model's choice of what R289 allows (log entry 6); `Inv` is log entry 12.
-/
def Obligations.NoteOnStopsOnlyAtVseqEnd : Prop :=
  (∀ s : State, s.vseq.toNat = 2 ^ 64 - 1 → exec .noteOn s = .refused .vseqExhausted) ∧
  (∀ s : State, s.Inv → s.vseq.toNat ≠ 2 ^ 64 - 1 → ∃ t, exec .noteOn s = .next t ∧ t.vseq.toNat = s.vseq.toNat + 1)

/-- R181, R230: NOTE_OFF moves every slot of every voice at the note ARG0 that is in ATTACK, DECAY or SUSTAIN to RELEASE,
keeps the envelope value, and changes nothing else. -/
def Obligations.NoteOffReleasesMatchingVoices : Prop :=
  ∀ s : State, ∃ vs : List Voice, exec .noteOff s = .next { s with voices := vs } ∧ vs.length = s.voices.length ∧
    (∀ i, FreeSlot s.voices i → FreeSlot vs i) ∧
    (∀ i v, HoldsVoice s.voices i v → v.note ≠ s.arg0 → HoldsVoice vs i v) ∧
    (∀ i v, HoldsVoice s.voices i v → v.note = s.arg0 →
      ∃ v' : Voice, HoldsVoice vs i v' ∧ v' = { v with osc := v'.osc } ∧
        ∀ k, v'.osc.get k =
          { v.osc.get k with est := if (v.osc.get k).est = .idle then Stage.idle else Stage.release })

/-- R231, R239, R240, R244: PULL completes whenever the routing is acyclic. It writes OUT and the voice table, increments
BLOCKCOUNT, and changes nothing else; a slot becomes invalid when its voice is idle after its block, else it holds the
voice after its block, and no voice joins. -/
def Obligations.PullCompletes : Prop :=
  ∀ s : State, Acyclic s.templates →
    ∃ (out : Block) (vs : List Voice),
      exec .pull s = .next { s with out := out, voices := vs, blockCount := s.blockCount + 1#32 } ∧
      out.length = s.build.blockLen ∧ vs.length = s.voices.length ∧ (∀ i, FreeSlot s.voices i → FreeSlot vs i) ∧
      (∀ i v, HoldsVoice s.voices i v →
        ((∀ c ∈ carriers s.templates, ((voiceBlock s v).2.osc.get c).est = .idle) → FreeSlot vs i) ∧
        ((∃ c ∈ carriers s.templates, ((voiceBlock s v).2.osc.get c).est ≠ .idle) → HoldsVoice vs i (voiceBlock s v).2))

/-- R237, R241: OUT after a PULL. With no member it is N copies of +0.0; with members it is, sample by sample, 1/n times
the sum of their blocks in ascending sequence number, n counting every member at the start of the PULL. -/
def Obligations.PullMixesMembers : Prop :=
  ∀ s t : State, exec .pull s = .next t →
    (validVoices s.voices = [] → t.out = List.replicate s.build.blockLen 0#64) ∧
    (∀ (v : Voice) (vs : List Voice) (i : Nat), (v :: vs).Perm (validVoices s.voices) →
      (v :: vs).Pairwise (fun a b => a.seq.toNat < b.seq.toNat) → i < s.build.blockLen →
        t.out[i]? = some
          (fMul (fDiv 0x3FF0000000000000#64 (fOfNat (vs.length + 1)))
            (vs.foldl (fun acc u => fAdd acc ((voiceBlock s u).1.getD i 0#64)) ((voiceBlock s v).1.getD i 0#64))))

/-! ### Whole-machine rules and invariants -/

/-- R240, R244, R50: nothing but PULL and SOFT_RESET writes OUT or BLOCKCOUNT; which voice slots are valid changes only
in NOTE_ON, in PULL and in SOFT_RESET; and only NOTE_ON and SOFT_RESET change VSEQ. -/
def Obligations.OutputAndMembershipChangeOnlyThere : Prop :=
  ∀ (i : Instr) (s t : State), exec i s = .next t → i ≠ .softReset →
    (i ≠ .pull → t.out = s.out ∧ t.blockCount = s.blockCount) ∧
    (i ≠ .noteOn → i ≠ .pull → t.voices.map (·.valid) = s.voices.map (·.valid)) ∧
    (i ≠ .noteOn → t.vseq = s.vseq)

/-- R29, R7: no command but SOFT_RESET writes ARG0 or ARG1, and no command at all changes the build, the accesses
still to come or the answer to the current one. `build`, `bus` and `resp` are the model's own fields (log entries 1
and 2). -/
def Obligations.CommandsKeepOperandsAndBuild : Prop :=
  ∀ (i : Instr) (s t : State), exec i s = .next t →
    t.build = s.build ∧ t.bus = s.bus ∧ t.resp = s.resp ∧
      (i ≠ .softReset → t.arg0 = s.arg0 ∧ t.arg1 = s.arg1)

/-- R41, R66: the bytes of the register window a command can change, through the model's read of one byte. `w` is the
command's own word; a rejected command changes only bytes of STATUS, ERRCODE and ERRCMD. -/
def Obligations.WindowFrame : Prop :=
  ∀ (i : Instr) (s t : State) (a : Addr), exec i s = .next t → i ≠ .softReset →
    (s.err = t.err ∧ s.errOvf = t.errOvf ∧ s.errCode = t.errCode ∧ s.errCmd = t.errCmd →
      ¬ (i = .setMaxv ∧ 0x28 ≤ a.toNat ∧ a.toNat < 0x2C) →
      ¬ (i = .setSeed ∧ 0x2C ≤ a.toNat ∧ a.toNat < 0x30) →
      ¬ ((∃ sub, i = .setIrqEn sub) ∧ a.toNat = 0x04) →
      ¬ (i = .noteOn ∧ a.toNat = 0x05) →
      ¬ (i = .pull ∧ (a.toNat = 0x05 ∨ (0x1C ≤ a.toNat ∧ a.toNat < 0x20) ∨
          (0x8000 ≤ a.toNat ∧ a.toNat < 0x8000 + 8 * s.build.blockLen))) →
      windowByte t a = windowByte s a) ∧
    (¬ (a.toNat = 0x04 ∨ a.toNat = 0x08 ∨ (0x0C ≤ a.toNat ∧ a.toNat < 0x10)) →
      (∃ c, t = raiseError c (encode i) s) → windowByte t a = windowByte s a)

/-- R45, R53, R298: the reset state of every legal build is a legal state, with VMAX voice slots, each of them invalid and with
every other field 0 (+0.0; stage 0 is ATTACK, R46). `Inv` is the model's reading of the legal values (log entry 12). -/
def Obligations.ResetIsLegal : Prop :=
  ∀ b : Build, b.Legal → (State.resetFor b).Inv ∧ (State.resetFor b).voices.length = b.vmax ∧
    ∀ v ∈ (State.resetFor b).voices,
      v.valid = false ∧ v.seq = 0#64 ∧ v.note = 0#32 ∧ (∀ k, v.osc.get k = ⟨0#32, .attack, 0#64, 0#32⟩) ∧ v.amPh = 0#32 ∧
        v.amNz = 0#32 ∧ v.z = 0#64 ∧ v.fade = 0#16

/-- Every step from a legal state leads to a legal state: sizes, error registers, legal configuration values, acyclic
routing (R204), distinct sequence numbers below VSEQ, no zero noise state, +0.0 in IDLE, fade within FADE_LEN. `Inv`
is the model's reading of the legal values (log entry 12). -/
def Obligations.StepKeepsLegal : Prop :=
  ∀ s t : State, s.Inv → step s = .next t → t.Inv

/-- From a legal state the machine never faults, and it is refused only for an undefined access (R63) or a NOTE_ON at
VSEQ = 2^64 - 1: every other access, and every command word whatever its bits, is served. Bus queue: log entry 2;
refusals: log entries 6 and 7; `Inv`: log entry 12. -/
def Obligations.LegalStatesAreServed : Prop :=
  ∀ s : State, s.Inv →
    (∃ t, step s = .next t) ∨
    (step s = .refused .busError ∧ ∃ a size v rest, (size ≠ 4 ∨ a.toNat % 4 ≠ 0) ∧
      (s.bus = .read a size :: rest ∨ s.bus = .write a size v :: rest)) ∨
    (step s = .refused .vseqExhausted ∧ s.vseq.toNat = 2 ^ 64 - 1 ∧
      ∃ rest, s.bus = .write 0x0010#16 4 0x00000040#32 :: rest)
end

