-- ==== Sys2Proof/Laws/Decode.lean ====
section
/-! SUPPORT. The fields of a command word as numbers, and those of an encoded word. -/

namespace Sys2Proof

theorem opField_toNat (w : Word) : (opField w).toNat = w.toNat % 256 := by
  simp [opField, BitVec.extractLsb'_toNat]
theorem kField_toNat (w : Word) : (kField w).toNat = w.toNat / 256 % 16 := by
  simp [kField, BitVec.extractLsb'_toNat, Nat.shiftRight_eq_div_pow]
theorem sField_toNat (w : Word) : (sField w).toNat = w.toNat / 4096 % 16 := by
  simp [sField, BitVec.extractLsb'_toNat, Nat.shiftRight_eq_div_pow]
theorem rsvField_toNat (w : Word) : (rsvField w).toNat = w.toNat / 65536 := by
  have := w.isLt
  simp [rsvField, BitVec.extractLsb'_toNat, Nat.shiftRight_eq_div_pow]
  omega

theorem commandWord_toNat (op : Byte) (k sub : BitVec 4) :
    (commandWord op k sub).toNat = op.toNat + 256 * k.toNat + 4096 * sub.toNat := by
  have ho := op.isLt
  have hk := k.isLt
  have hs := sub.isLt
  simp only [commandWord, BitVec.toNat_append, BitVec.toNat_ofNat]
  rw [← Nat.shiftLeft_add_eq_or_of_lt (by omega), ← Nat.shiftLeft_add_eq_or_of_lt (by omega),
    ← Nat.shiftLeft_add_eq_or_of_lt (by omega)]
  simp only [Nat.shiftLeft_eq]
  omega

@[simp] theorem opField_commandWord (op : Byte) (k sub : BitVec 4) : opField (commandWord op k sub) = op := by
  have ho := op.isLt
  have hk := k.isLt
  have hs := sub.isLt
  apply BitVec.eq_of_toNat_eq
  rw [opField_toNat, commandWord_toNat]
  omega

@[simp] theorem kField_commandWord (op : Byte) (k sub : BitVec 4) : kField (commandWord op k sub) = k := by
  have ho := op.isLt
  have hk := k.isLt
  have hs := sub.isLt
  apply BitVec.eq_of_toNat_eq
  rw [kField_toNat, commandWord_toNat]
  omega

@[simp] theorem sField_commandWord (op : Byte) (k sub : BitVec 4) : sField (commandWord op k sub) = sub := by
  have ho := op.isLt
  have hk := k.isLt
  have hs := sub.isLt
  apply BitVec.eq_of_toNat_eq
  rw [sField_toNat, commandWord_toNat]
  omega

@[simp] theorem rsvField_commandWord (op : Byte) (k sub : BitVec 4) : rsvField (commandWord op k sub) = 0#16 := by
  have ho := op.isLt
  have hk := k.isLt
  have hs := sub.isLt
  apply BitVec.eq_of_toNat_eq
  rw [rsvField_toNat, commandWord_toNat]
  simp only [BitVec.toNat_ofNat]
  omega

/-- A word is made of its fields. -/
theorem commandWord_fields (w : Word) (h : rsvField w = 0#16) :
    commandWord (opField w) (kField w) (sField w) = w := by
  have hw := w.isLt
  have hr := congrArg BitVec.toNat h
  rw [rsvField_toNat] at hr
  simp only [BitVec.toNat_ofNat] at hr
  apply BitVec.eq_of_toNat_eq
  rw [commandWord_toNat, opField_toNat, kField_toNat, sField_toNat]
  omega

end Sys2Proof
end

