-- ==== Sys2Proof/Laws/Envelope.lean ====
section
/-! SUPPORT. Lengths and end points of the blocks the datapath makes, one lemma for each operation. -/

namespace Sys2Proof.Machine

@[simp] theorem rampBlock_length (base m : F64) (n : Nat) (env : F64) : (rampBlock base m n env).1.length = n := by
  induction n generalizing env with
  | zero => rfl
  | succ n ih => simp [rampBlock, ih]

@[simp] theorem noiseBlock_length (n : Nat) (x : Word) : (noiseBlock n x).1.length = n := by
  induction n generalizing x with
  | zero => rfl
  | succ n ih => simp [noiseBlock, ih]

@[simp] theorem phaseBlock_length (ph inc : Word) (n : Nat) : (phaseBlock ph inc n).length = n := by simp [phaseBlock]

@[simp] theorem waveBlock_length (w : Waveform) (ps : List Word) (nz : Word) : (waveBlock w ps nz).1.length = ps.length := by
  cases w <;> simp [waveBlock]

@[simp] theorem passRecurrence_length (b0 b1 a1 : F64) (x : Block) (z : F64) :
    (passRecurrence b0 b1 a1 x z).1.length = x.length := by
  induction x generalizing z with
  | nil => rfl
  | cons a x ih => simp [passRecurrence, ih]

@[simp] theorem passNode_length (p : PassFilter) (x : Block) (z : F64) : (passNode p x z).1.length = x.length := by
  unfold passNode; split <;> simp

@[simp] theorem fadeNode_length (len c0 : BitVec 16) (x : Block) : (fadeNode len c0 x).length = x.length := by
  unfold fadeNode; split <;> simp

theorem tremoloNode_length (en : Bool) (x am : Block) (h : x.length = am.length) :
    (tremoloNode en x am).length = x.length := by
  unfold tremoloNode; split <;> simp [h]

@[simp] theorem tremoloOscillator_length (c : Tremolo) (ph nz : Word) (n : Nat) :
    (tremoloOscillator c ph nz n).1.length = n := by simp [tremoloOscillator]

end Sys2Proof.Machine
end

