-- ==== Sys2Proof/Laws/State.lean ====
section
/-! SUPPORT. One small lemma per field of State and shared update (Machine/Ops.lean), so that no later proof unfolds a
record update. -/

namespace Sys2Proof.Machine

/-! ### updateTemplate: only the templates change -/

@[simp] theorem updateTemplate_build (k : Slot) (f : Template → Template) (s : State) :
    (updateTemplate k f s).build = s.build := rfl
@[simp] theorem updateTemplate_err (k : Slot) (f : Template → Template) (s : State) :
    (updateTemplate k f s).err = s.err := rfl
@[simp] theorem updateTemplate_errOvf (k : Slot) (f : Template → Template) (s : State) :
    (updateTemplate k f s).errOvf = s.errOvf := rfl
@[simp] theorem updateTemplate_errCode (k : Slot) (f : Template → Template) (s : State) :
    (updateTemplate k f s).errCode = s.errCode := rfl
@[simp] theorem updateTemplate_errCmd (k : Slot) (f : Template → Template) (s : State) :
    (updateTemplate k f s).errCmd = s.errCmd := rfl
@[simp] theorem updateTemplate_arg0 (k : Slot) (f : Template → Template) (s : State) :
    (updateTemplate k f s).arg0 = s.arg0 := rfl
@[simp] theorem updateTemplate_arg1 (k : Slot) (f : Template → Template) (s : State) :
    (updateTemplate k f s).arg1 = s.arg1 := rfl
@[simp] theorem updateTemplate_blockCount (k : Slot) (f : Template → Template) (s : State) :
    (updateTemplate k f s).blockCount = s.blockCount := rfl
@[simp] theorem updateTemplate_templates (k : Slot) (f : Template → Template) (s : State) :
    (updateTemplate k f s).templates = s.templates.set k (f (s.templates.get k)) := rfl
@[simp] theorem updateTemplate_tremolo (k : Slot) (f : Template → Template) (s : State) :
    (updateTemplate k f s).tremolo = s.tremolo := rfl
@[simp] theorem updateTemplate_pass (k : Slot) (f : Template → Template) (s : State) :
    (updateTemplate k f s).pass = s.pass := rfl
@[simp] theorem updateTemplate_maxv (k : Slot) (f : Template → Template) (s : State) :
    (updateTemplate k f s).maxv = s.maxv := rfl
@[simp] theorem updateTemplate_noiseSeed (k : Slot) (f : Template → Template) (s : State) :
    (updateTemplate k f s).noiseSeed = s.noiseSeed := rfl
@[simp] theorem updateTemplate_irqEn (k : Slot) (f : Template → Template) (s : State) :
    (updateTemplate k f s).irqEn = s.irqEn := rfl
@[simp] theorem updateTemplate_voices (k : Slot) (f : Template → Template) (s : State) :
    (updateTemplate k f s).voices = s.voices := rfl
@[simp] theorem updateTemplate_out (k : Slot) (f : Template → Template) (s : State) :
    (updateTemplate k f s).out = s.out := rfl
@[simp] theorem updateTemplate_vseq (k : Slot) (f : Template → Template) (s : State) :
    (updateTemplate k f s).vseq = s.vseq := rfl
@[simp] theorem updateTemplate_bus (k : Slot) (f : Template → Template) (s : State) :
    (updateTemplate k f s).bus = s.bus := rfl
@[simp] theorem updateTemplate_resp (k : Slot) (f : Template → Template) (s : State) :
    (updateTemplate k f s).resp = s.resp := rfl

/-! ### raiseError: only the error registers change (R274) -/

@[simp] theorem raiseError_build (c : ErrCode) (w : Word) (s : State) :
    (raiseError c w s).build = s.build := by unfold raiseError; split <;> rfl
@[simp] theorem raiseError_arg0 (c : ErrCode) (w : Word) (s : State) :
    (raiseError c w s).arg0 = s.arg0 := by unfold raiseError; split <;> rfl
@[simp] theorem raiseError_arg1 (c : ErrCode) (w : Word) (s : State) :
    (raiseError c w s).arg1 = s.arg1 := by unfold raiseError; split <;> rfl
@[simp] theorem raiseError_blockCount (c : ErrCode) (w : Word) (s : State) :
    (raiseError c w s).blockCount = s.blockCount := by unfold raiseError; split <;> rfl
@[simp] theorem raiseError_templates (c : ErrCode) (w : Word) (s : State) :
    (raiseError c w s).templates = s.templates := by unfold raiseError; split <;> rfl
@[simp] theorem raiseError_tremolo (c : ErrCode) (w : Word) (s : State) :
    (raiseError c w s).tremolo = s.tremolo := by unfold raiseError; split <;> rfl
@[simp] theorem raiseError_pass (c : ErrCode) (w : Word) (s : State) :
    (raiseError c w s).pass = s.pass := by unfold raiseError; split <;> rfl
@[simp] theorem raiseError_maxv (c : ErrCode) (w : Word) (s : State) :
    (raiseError c w s).maxv = s.maxv := by unfold raiseError; split <;> rfl
@[simp] theorem raiseError_noiseSeed (c : ErrCode) (w : Word) (s : State) :
    (raiseError c w s).noiseSeed = s.noiseSeed := by unfold raiseError; split <;> rfl
@[simp] theorem raiseError_irqEn (c : ErrCode) (w : Word) (s : State) :
    (raiseError c w s).irqEn = s.irqEn := by unfold raiseError; split <;> rfl
@[simp] theorem raiseError_voices (c : ErrCode) (w : Word) (s : State) :
    (raiseError c w s).voices = s.voices := by unfold raiseError; split <;> rfl
@[simp] theorem raiseError_out (c : ErrCode) (w : Word) (s : State) :
    (raiseError c w s).out = s.out := by unfold raiseError; split <;> rfl
@[simp] theorem raiseError_vseq (c : ErrCode) (w : Word) (s : State) :
    (raiseError c w s).vseq = s.vseq := by unfold raiseError; split <;> rfl
@[simp] theorem raiseError_bus (c : ErrCode) (w : Word) (s : State) :
    (raiseError c w s).bus = s.bus := by unfold raiseError; split <;> rfl
@[simp] theorem raiseError_resp (c : ErrCode) (w : Word) (s : State) :
    (raiseError c w s).resp = s.resp := by unfold raiseError; split <;> rfl
@[simp] theorem raiseError_err (c : ErrCode) (w : Word) (s : State) : (raiseError c w s).err = true := by
  unfold raiseError; split <;> simp_all
@[simp] theorem raiseError_errOvf (c : ErrCode) (w : Word) (s : State) :
    (raiseError c w s).errOvf = (s.errOvf || s.err) := by
  unfold raiseError; split <;> simp_all
@[simp] theorem raiseError_errCode (c : ErrCode) (w : Word) (s : State) :
    (raiseError c w s).errCode = if s.err then s.errCode else errorNumber c := by
  unfold raiseError; split <;> simp_all
@[simp] theorem raiseError_errCmd (c : ErrCode) (w : Word) (s : State) :
    (raiseError c w s).errCmd = if s.err then s.errCmd else w := by
  unfold raiseError; split <;> simp_all

/-! ### clearErrors: only the error registers change (R258) -/

@[simp] theorem clearErrors_build (s : State) : (clearErrors s).build = s.build := rfl
@[simp] theorem clearErrors_err (s : State) : (clearErrors s).err = false := rfl
@[simp] theorem clearErrors_errOvf (s : State) : (clearErrors s).errOvf = false := rfl
@[simp] theorem clearErrors_errCode (s : State) : (clearErrors s).errCode = 0#8 := rfl
@[simp] theorem clearErrors_errCmd (s : State) : (clearErrors s).errCmd = 0#32 := rfl
@[simp] theorem clearErrors_arg0 (s : State) : (clearErrors s).arg0 = s.arg0 := rfl
@[simp] theorem clearErrors_arg1 (s : State) : (clearErrors s).arg1 = s.arg1 := rfl
@[simp] theorem clearErrors_blockCount (s : State) : (clearErrors s).blockCount = s.blockCount := rfl
@[simp] theorem clearErrors_templates (s : State) : (clearErrors s).templates = s.templates := rfl
@[simp] theorem clearErrors_tremolo (s : State) : (clearErrors s).tremolo = s.tremolo := rfl
@[simp] theorem clearErrors_pass (s : State) : (clearErrors s).pass = s.pass := rfl
@[simp] theorem clearErrors_maxv (s : State) : (clearErrors s).maxv = s.maxv := rfl
@[simp] theorem clearErrors_noiseSeed (s : State) : (clearErrors s).noiseSeed = s.noiseSeed := rfl
@[simp] theorem clearErrors_irqEn (s : State) : (clearErrors s).irqEn = s.irqEn := rfl
@[simp] theorem clearErrors_voices (s : State) : (clearErrors s).voices = s.voices := rfl
@[simp] theorem clearErrors_out (s : State) : (clearErrors s).out = s.out := rfl
@[simp] theorem clearErrors_vseq (s : State) : (clearErrors s).vseq = s.vseq := rfl
@[simp] theorem clearErrors_bus (s : State) : (clearErrors s).bus = s.bus := rfl
@[simp] theorem clearErrors_resp (s : State) : (clearErrors s).resp = s.resp := rfl

/-! ### resetBlock: build, bus and answer stay (R297) -/

@[simp] theorem resetBlock_build (s : State) : (resetBlock s).build = s.build := rfl
@[simp] theorem resetBlock_err (s : State) : (resetBlock s).err = (State.resetFor s.build).err := rfl
@[simp] theorem resetBlock_errOvf (s : State) : (resetBlock s).errOvf = (State.resetFor s.build).errOvf := rfl
@[simp] theorem resetBlock_errCode (s : State) : (resetBlock s).errCode = (State.resetFor s.build).errCode := rfl
@[simp] theorem resetBlock_errCmd (s : State) : (resetBlock s).errCmd = (State.resetFor s.build).errCmd := rfl
@[simp] theorem resetBlock_arg0 (s : State) : (resetBlock s).arg0 = (State.resetFor s.build).arg0 := rfl
@[simp] theorem resetBlock_arg1 (s : State) : (resetBlock s).arg1 = (State.resetFor s.build).arg1 := rfl
@[simp] theorem resetBlock_blockCount (s : State) : (resetBlock s).blockCount = (State.resetFor s.build).blockCount := rfl
@[simp] theorem resetBlock_templates (s : State) : (resetBlock s).templates = (State.resetFor s.build).templates := rfl
@[simp] theorem resetBlock_tremolo (s : State) : (resetBlock s).tremolo = (State.resetFor s.build).tremolo := rfl
@[simp] theorem resetBlock_pass (s : State) : (resetBlock s).pass = (State.resetFor s.build).pass := rfl
@[simp] theorem resetBlock_maxv (s : State) : (resetBlock s).maxv = (State.resetFor s.build).maxv := rfl
@[simp] theorem resetBlock_noiseSeed (s : State) : (resetBlock s).noiseSeed = (State.resetFor s.build).noiseSeed := rfl
@[simp] theorem resetBlock_irqEn (s : State) : (resetBlock s).irqEn = (State.resetFor s.build).irqEn := rfl
@[simp] theorem resetBlock_voices (s : State) : (resetBlock s).voices = (State.resetFor s.build).voices := rfl
@[simp] theorem resetBlock_out (s : State) : (resetBlock s).out = (State.resetFor s.build).out := rfl
@[simp] theorem resetBlock_vseq (s : State) : (resetBlock s).vseq = (State.resetFor s.build).vseq := rfl
@[simp] theorem resetBlock_bus (s : State) : (resetBlock s).bus = s.bus := rfl
@[simp] theorem resetBlock_resp (s : State) : (resetBlock s).resp = s.resp := rfl

/-! ### Quad: reading after a write -/

@[simp] theorem Quad.get_set_self {α : Type} (q : Quad α) (k : Slot) (x : α) : (q.set k x).get k = x := by
  cases k <;> rfl

theorem Quad.get_set_of_ne {α : Type} (q : Quad α) {k j : Slot} (x : α) (h : j ≠ k) : (q.set k x).get j = q.get j := by
  cases k <;> cases j <;> first | rfl | exact absurd rfl h

@[simp] theorem Quad.get_ofFn {α : Type} (f : Slot → α) (k : Slot) : (Quad.ofFn f).get k = f k := by
  cases k <;> rfl

theorem Quad.ext_get {α : Type} {p q : Quad α} (h : ∀ k, p.get k = q.get k) : p = q := by
  obtain ⟨a, b, c, d⟩ := p
  obtain ⟨a', b', c', d'⟩ := q
  have hA : a = a' := h .A
  have hB : b = b' := h .B
  have hC : c = c' := h .C
  have hD : d = d' := h .D
  subst hA hB hC hD
  rfl

@[simp] theorem Slot.mem_all (k : Slot) : k ∈ Slot.all := by cases k <;> decide

end Sys2Proof.Machine
end

