-- ==== Sys2Proof/Laws/Ops.lean ====
section
/-! SUPPORT. What the shared operations can do, said once: how a command ends, what each operand check answers, what a
command's run of checks leads to. -/

namespace Sys2Proof.Machine

/-- The two ways a command ends (R274, R275). -/
theorem finish_next {i : Instr} {s t : State} {r : Except ErrCode State} (h : finish i s r = .next t) :
    r = .ok t ∨ ∃ c, r = .error c ∧ t = raiseError c (encode i) s := by
  cases r with
  | ok u => left; simp only [finish, Host.Outcome.next.injEq] at h; rw [h]
  | error c => right; simp only [finish, Host.Outcome.next.injEq] at h; exact ⟨c, rfl, h.symm⟩

@[simp] theorem finish_ok (i : Instr) (s t : State) : finish i s (.ok t) = .next t := rfl
@[simp] theorem finish_error (i : Instr) (s : State) (c : ErrCode) :
    finish i s (.error c) = .next (raiseError c (encode i) s) := rfl

/-- A sequence of checks ends well exactly when each of them does. -/
theorem bind_eq_ok {α β : Type} {x : Except ErrCode α} {f : α → Except ErrCode β} {y : β} :
    (x >>= f) = .ok y ↔ ∃ a, x = .ok a ∧ f a = .ok y := by
  cases x with
  | ok a => exact ⟨fun h => ⟨a, rfl, h⟩, fun ⟨b, hb, h⟩ => by cases hb; exact h⟩
  | error c => exact ⟨fun h => (nomatch h), fun ⟨_, hb, _⟩ => nomatch hb⟩

@[simp] theorem ok_bind {α β : Type} (a : α) (f : α → Except ErrCode β) : ((.ok a : Except ErrCode α) >>= f) = f a := rfl
@[simp] theorem error_bind {α β : Type} (c : ErrCode) (f : α → Except ErrCode β) :
    ((.error c : Except ErrCode α) >>= f) = .error c := rfl
@[simp] theorem pure_eq_ok {α : Type} (a : α) : (pure a : Except ErrCode α) = .ok a := rfl

@[simp] theorem require_true (c : ErrCode) : require true c = .ok () := rfl
@[simp] theorem require_false (c : ErrCode) : require false c = .error c := rfl

theorem require_eq_ok {b : Bool} {c : ErrCode} {u : Unit} : require b c = .ok u ↔ b = true := by
  cases b <;> simp [require]

@[simp] theorem slotOperand_code (j : Slot) : slotOperand (slotCode j) = .ok j := by cases j <;> rfl
@[simp] theorem waveOperand_code (w : Waveform) : waveOperand (waveCode w) = .ok w := by cases w <;> rfl
@[simp] theorem flagOperand_code (f : Bool) : flagOperand (flagCode f) = .ok f := by cases f <;> rfl
@[simp] theorem filterOperand_code (f : FilterType) : filterOperand (filterCode f) = .ok f := by cases f <;> rfl

/-- A slot field outside 0..3 is BAD_SLOT (R94). -/
theorem slotOperand_bad : ∀ k : BitVec 4, 4 ≤ k.toNat → slotOperand k = .error .badSlot := by decide
/-- A slot field in 0..3 is the code of a slot. -/
theorem slotOperand_good : ∀ k : BitVec 4, k.toNat < 4 → ∃ j, k = slotCode j := by
  intro k hk
  have : k = 0#4 ∨ k = 1#4 ∨ k = 2#4 ∨ k = 3#4 := by revert k; decide
  rcases this with h | h | h | h
  · exact ⟨.A, h⟩
  · exact ⟨.B, h⟩
  · exact ⟨.C, h⟩
  · exact ⟨.D, h⟩

theorem waveOperand_bad : ∀ s : BitVec 4, 3 ≤ s.toNat → waveOperand s = .error .reservedField := by decide
theorem flagOperand_bad : ∀ s : BitVec 4, 2 ≤ s.toNat → flagOperand s = .error .reservedField := by decide
theorem filterOperand_bad : ∀ s : BitVec 4, 3 ≤ s.toNat → filterOperand s = .error .reservedField := by decide
theorem presetOperand_bad : ∀ s : BitVec 4, 4 ≤ s.toNat → presetOperand s = .error .reservedField := by decide

/-- Every accepted slot operand comes from its own code. -/
theorem slotOperand_eq_ok {k : BitVec 4} {j : Slot} (h : slotOperand k = .ok j) : k = slotCode j := by
  revert h; revert k j; intro k j
  cases j <;> revert k <;> decide

/-- What the accepted forms of the value operands say. -/
theorem operandUnit_eq_ok {s : State} {x : F64} :
    operandUnit s = .ok x ↔ inUnitRange (operandF64 s) = true ∧ x = operandF64 s := by
  unfold operandUnit
  by_cases h : inUnitRange (operandF64 s) = true
  · rw [if_pos h]
    exact ⟨fun e => ⟨h, by injection e with e; exact e.symm⟩, fun e => by rw [e.2]⟩
  · rw [if_neg h]
    exact ⟨fun e => (nomatch e), fun e => absurd e.1 h⟩
theorem operandOffset_eq_ok {s : State} {x : F64} :
    operandOffset s = .ok x ↔ isPositiveFinite (operandF64 s) = true ∧ x = operandF64 s := by
  unfold operandOffset
  by_cases h : isPositiveFinite (operandF64 s) = true
  · rw [if_pos h]
    exact ⟨fun e => ⟨h, by injection e with e; exact e.symm⟩, fun e => by rw [e.2]⟩
  · rw [if_neg h]
    exact ⟨fun e => (nomatch e), fun e => absurd e.1 h⟩

end Sys2Proof.Machine
end

