-- ==== Sys2Proof/Laws/Exec.lean ====
section
/-! SUPPORT. What any command can do, said once: `exec_next` lists the next states of `exec`, and every whole-machine
statement is a case analysis over it. -/

namespace Sys2Proof.Machine

/-- A change of one template that keeps its legal values (R37). -/
def KeepsTemplateOk (f : Template → Template) : Prop := ∀ t, TemplateOk t → TemplateOk (f t)

/-- A change of one template that leaves the routing graph alone. -/
def KeepsRouting (f : Template → Template) : Prop := ∀ t, (f t).present = t.present ∧ (f t).targets = t.targets

/-- The commands that write one field of one slot template. -/
def isSlotCommand : Instr → Bool
  | .setWave _ _ => true
  | .setFreq _ => true
  | .setRatio _ => true
  | .setAmp _ => true
  | .setFixed _ _ => true
  | .setDisabled _ _ => true
  | .setPresent _ _ => true
  | .setTargets _ => true
  | .setAttack _ => true
  | .setDecay _ => true
  | .setSustain _ => true
  | .setRelease _ => true
  | .setAtarget _ => true
  | .setDrtarget _ => true
  | _ => false

/-- The tremolo commands. -/
def isTremoloCommand : Instr → Bool
  | .setAmEnable _ => true
  | .setAmWave _ => true
  | .setAmFreq => true
  | .setAmAmp => true
  | _ => false

/-- The effect of an accepted command. -/
inductive Accepted : Instr → State → State → Prop where
  | nop (s : State) : Accepted .nop s s
  | clearErr (s : State) : Accepted .clearErr s (clearErrors s)
  | softReset (s : State) : Accepted .softReset s (resetBlock s)
  | setIrqEn (sub : BitVec 4) (f : Bool) (s : State) : Accepted (.setIrqEn sub) s { s with irqEn := f }
  | setMaxv (s : State) (h : 1 ≤ s.arg0.toNat ∧ s.arg0.toNat ≤ s.build.vmax) :
      Accepted .setMaxv s { s with maxv := s.arg0.setWidth 8 }
  | setSeed (s : State) : Accepted .setSeed s { s with noiseSeed := s.arg0 }
  | slot (i : Instr) (k : Slot) (f : Template → Template) (s : State) (hi : isSlotCommand i = true)
      (hf : KeepsTemplateOk f) (hr : KeepsRouting f ∨ cyclic (updateTemplate k f s).templates = false) :
      Accepted i s (updateTemplate k f s)
  | preset (sub : BitVec 4) (masks : Quad (BitVec 4)) (s : State) (h : presetOperand sub = .ok masks) :
      Accepted (.applyPreset sub) s
        { s with templates := Quad.ofFn fun k => { s.templates.get k with targets := masks.get k } }
  | tremolo (i : Instr) (r : Tremolo) (s : State) (hi : isTremoloCommand i = true)
      (h : inUnitRange s.tremolo.amp = true → inUnitRange r.amp = true) : Accepted i s { s with tremolo := r }
  | pass (sub : BitVec 4) (ty : FilterType) (s : State) (h : ty = .none ∨ cutoffLegal s.arg0 = true) :
      Accepted (.setPass sub) s { s with pass := passCoefficients s.pass ty s.arg0 }
  | noteOn (s : State) (vs : List Voice) (hq : s.vseq ≠ 0xFFFFFFFFFFFFFFFF#64)
      (h : placeVoice (newVoice s) (evictWhileFull s.maxv.toNat s.voices.length s.voices) = some vs) :
      Accepted .noteOn s { s with voices := vs, vseq := s.vseq + 1#64 }
  | noteOff (s : State) : Accepted .noteOff s { s with voices := s.voices.map (releaseIfNote s.arg0) }
  | pull (s : State) (h : cyclic s.templates = false) :
      Accepted .pull s
        { s with out := pulledOut s, voices := pulledVoices s, blockCount := s.blockCount + 1#32 }

/-- A command answers a next state exactly by the error procedure or by its accepted effect. -/
theorem exec_next {i : Instr} {s t : State} (h : exec i s = .next t) :
    (∃ c, t = raiseError c (encode i) s) ∨ Accepted i s t := by
  cases i with
  | nop => right; cases h; exact .nop s
  | clearErr => right; cases h; exact .clearErr s
  | softReset => right; cases h; exact .softReset s
  | setSeed => right; cases h; exact .setSeed s
  | noteOff => right; cases h; exact .noteOff s
  | setAmFreq => right; cases h; exact .tremolo _ _ s rfl id
  | setIrqEn sub =>
    rcases finish_next h with h | ⟨c, _, rfl⟩
    · obtain ⟨f, _, h⟩ := bind_eq_ok.1 h
      cases h; exact .inr (.setIrqEn sub f s)
    · exact .inl ⟨c, rfl⟩
  | setMaxv =>
    rcases finish_next h with h | ⟨c, _, rfl⟩
    · obtain ⟨_, hr, h⟩ := bind_eq_ok.1 h
      cases h; exact .inr (.setMaxv s (of_decide_eq_true (require_eq_ok.1 hr)))
    · exact .inl ⟨c, rfl⟩
  | setWave k sub =>
    rcases finish_next h with h | ⟨c, _, rfl⟩
    · obtain ⟨w, _, h⟩ := bind_eq_ok.1 h
      obtain ⟨j, _, h⟩ := bind_eq_ok.1 h
      cases h; exact .inr (.slot _ j _ s rfl (fun _ h => h) (.inl fun _ => ⟨rfl, rfl⟩))
    · exact .inl ⟨c, rfl⟩
  | setFixed k sub =>
    rcases finish_next h with h | ⟨c, _, rfl⟩
    · obtain ⟨w, _, h⟩ := bind_eq_ok.1 h
      obtain ⟨j, _, h⟩ := bind_eq_ok.1 h
      cases h; exact .inr (.slot _ j _ s rfl (fun _ h => h) (.inl fun _ => ⟨rfl, rfl⟩))
    · exact .inl ⟨c, rfl⟩
  | setDisabled k sub =>
    rcases finish_next h with h | ⟨c, _, rfl⟩
    · obtain ⟨w, _, h⟩ := bind_eq_ok.1 h
      obtain ⟨j, _, h⟩ := bind_eq_ok.1 h
      cases h; exact .inr (.slot _ j _ s rfl (fun _ h => h) (.inl fun _ => ⟨rfl, rfl⟩))
    · exact .inl ⟨c, rfl⟩
  | setFreq k =>
    rcases finish_next h with h | ⟨c, _, rfl⟩
    · obtain ⟨j, _, h⟩ := bind_eq_ok.1 h
      cases h; exact .inr (.slot _ j _ s rfl (fun _ h => h) (.inl fun _ => ⟨rfl, rfl⟩))
    · exact .inl ⟨c, rfl⟩
  | setRatio k =>
    rcases finish_next h with h | ⟨c, _, rfl⟩
    · obtain ⟨j, _, h⟩ := bind_eq_ok.1 h
      cases h; exact .inr (.slot _ j _ s rfl (fun _ h => h) (.inl fun _ => ⟨rfl, rfl⟩))
    · exact .inl ⟨c, rfl⟩
  | setAttack k =>
    rcases finish_next h with h | ⟨c, _, rfl⟩
    · obtain ⟨j, _, h⟩ := bind_eq_ok.1 h
      cases h; exact .inr (.slot _ j _ s rfl (fun _ h => h) (.inl fun _ => ⟨rfl, rfl⟩))
    · exact .inl ⟨c, rfl⟩
  | setDecay k =>
    rcases finish_next h with h | ⟨c, _, rfl⟩
    · obtain ⟨j, _, h⟩ := bind_eq_ok.1 h
      cases h; exact .inr (.slot _ j _ s rfl (fun _ h => h) (.inl fun _ => ⟨rfl, rfl⟩))
    · exact .inl ⟨c, rfl⟩
  | setRelease k =>
    rcases finish_next h with h | ⟨c, _, rfl⟩
    · obtain ⟨j, _, h⟩ := bind_eq_ok.1 h
      cases h; exact .inr (.slot _ j _ s rfl (fun _ h => h) (.inl fun _ => ⟨rfl, rfl⟩))
    · exact .inl ⟨c, rfl⟩
  | setAmp k =>
    rcases finish_next h with h | ⟨c, _, rfl⟩
    · obtain ⟨j, _, h⟩ := bind_eq_ok.1 h
      obtain ⟨x, hx, h⟩ := bind_eq_ok.1 h
      obtain ⟨hu, rfl⟩ := operandUnit_eq_ok.1 hx
      cases h; exact .inr (.slot _ j _ s rfl (fun _ h => ⟨hu, h.2⟩) (.inl fun _ => ⟨rfl, rfl⟩))
    · exact .inl ⟨c, rfl⟩
  | setSustain k =>
    rcases finish_next h with h | ⟨c, _, rfl⟩
    · obtain ⟨j, _, h⟩ := bind_eq_ok.1 h
      obtain ⟨x, hx, h⟩ := bind_eq_ok.1 h
      obtain ⟨hu, rfl⟩ := operandUnit_eq_ok.1 hx
      cases h; exact .inr (.slot _ j _ s rfl (fun _ h => ⟨h.1, hu, h.2.2⟩) (.inl fun _ => ⟨rfl, rfl⟩))
    · exact .inl ⟨c, rfl⟩
  | setAtarget k =>
    rcases finish_next h with h | ⟨c, _, rfl⟩
    · obtain ⟨j, _, h⟩ := bind_eq_ok.1 h
      obtain ⟨x, hx, h⟩ := bind_eq_ok.1 h
      obtain ⟨hu, rfl⟩ := operandOffset_eq_ok.1 hx
      cases h; exact .inr (.slot _ j _ s rfl (fun _ h => ⟨h.1, h.2.1, hu, h.2.2.2⟩) (.inl fun _ => ⟨rfl, rfl⟩))
    · exact .inl ⟨c, rfl⟩
  | setDrtarget k =>
    rcases finish_next h with h | ⟨c, _, rfl⟩
    · obtain ⟨j, _, h⟩ := bind_eq_ok.1 h
      obtain ⟨x, hx, h⟩ := bind_eq_ok.1 h
      obtain ⟨hu, rfl⟩ := operandOffset_eq_ok.1 hx
      cases h; exact .inr (.slot _ j _ s rfl (fun _ h => ⟨h.1, h.2.1, h.2.2.1, hu⟩) (.inl fun _ => ⟨rfl, rfl⟩))
    · exact .inl ⟨c, rfl⟩
  | setPresent k sub =>
    rcases finish_next h with h | ⟨c, _, rfl⟩
    · obtain ⟨f, _, h⟩ := bind_eq_ok.1 h
      obtain ⟨j, _, h⟩ := bind_eq_ok.1 h
      obtain ⟨_, hc, h⟩ := bind_eq_ok.1 h
      cases h
      exact .inr (.slot _ j _ s rfl (fun _ h => h) (.inr (by simpa using require_eq_ok.1 hc)))
    · exact .inl ⟨c, rfl⟩
  | setTargets k =>
    rcases finish_next h with h | ⟨c, _, rfl⟩
    · obtain ⟨j, _, h⟩ := bind_eq_ok.1 h
      obtain ⟨m, _, h⟩ := bind_eq_ok.1 h
      obtain ⟨_, hc, h⟩ := bind_eq_ok.1 h
      cases h
      exact .inr (.slot _ j _ s rfl (fun _ h => h) (.inr (by simpa using require_eq_ok.1 hc)))
    · exact .inl ⟨c, rfl⟩
  | applyPreset sub =>
    rcases finish_next h with h | ⟨c, _, rfl⟩
    · obtain ⟨m, hm, h⟩ := bind_eq_ok.1 h
      cases h; exact .inr (.preset sub m s hm)
    · exact .inl ⟨c, rfl⟩
  | setAmEnable sub =>
    rcases finish_next h with h | ⟨c, _, rfl⟩
    · obtain ⟨f, _, h⟩ := bind_eq_ok.1 h
      cases h; exact .inr (.tremolo _ _ s rfl id)
    · exact .inl ⟨c, rfl⟩
  | setAmWave sub =>
    rcases finish_next h with h | ⟨c, _, rfl⟩
    · obtain ⟨f, _, h⟩ := bind_eq_ok.1 h
      cases h; exact .inr (.tremolo _ _ s rfl id)
    · exact .inl ⟨c, rfl⟩
  | setAmAmp =>
    rcases finish_next h with h | ⟨c, _, rfl⟩
    · obtain ⟨x, hx, h⟩ := bind_eq_ok.1 h
      obtain ⟨hu, rfl⟩ := operandUnit_eq_ok.1 hx
      cases h; exact .inr (.tremolo _ _ s rfl fun _ => hu)
    · exact .inl ⟨c, rfl⟩
  | setPass sub =>
    rcases finish_next h with h | ⟨c, _, rfl⟩
    · obtain ⟨ty, _, h⟩ := bind_eq_ok.1 h
      obtain ⟨_, hc, h⟩ := bind_eq_ok.1 h
      cases h
      exact .inr (.pass sub ty s (by simpa [operandU32] using require_eq_ok.1 hc))
    · exact .inl ⟨c, rfl⟩
  | noteOn =>
    simp only [exec, execNoteOn] at h
    split at h
    · cases h
    · rename_i hq
      split at h
      · cases h
      · rename_i vs hvs
        cases h; exact .inr (.noteOn s vs hq hvs)
  | pull =>
    simp only [exec, execPull] at h
    split at h
    · cases h
    · rename_i hc
      cases h; exact .inr (.pull s (by simpa using hc))

/-- A command stops only where NOTE_ON or PULL says so. -/
theorem exec_stops {i : Instr} {s : State} (h : ∀ t, exec i s ≠ .next t) :
    (i = .noteOn ∧ (s.vseq = 0xFFFFFFFFFFFFFFFF#64 ∨
      placeVoice (newVoice s) (evictWhileFull s.maxv.toNat s.voices.length s.voices) = none)) ∨
    (i = .pull ∧ cyclic s.templates = true) := by
  have fin : ∀ (j : Instr) (r : Except ErrCode State), ∃ t, finish j s r = .next t := fun j r => by
    cases r with
    | ok t => exact ⟨t, rfl⟩
    | error c => exact ⟨_, rfl⟩
  cases i
  case noteOn =>
    left
    refine ⟨rfl, ?_⟩
    by_cases hq : s.vseq = 0xFFFFFFFFFFFFFFFF#64
    · exact .inl hq
    · right
      cases hp : placeVoice (newVoice s) (evictWhileFull s.maxv.toNat s.voices.length s.voices) with
      | none => rfl
      | some vs => exact absurd (by simp only [exec, execNoteOn, if_neg hq, hp]; rfl) (h _)
  case pull =>
    right
    refine ⟨rfl, ?_⟩
    by_cases hc : cyclic s.templates = true
    · exact hc
    · exact absurd (by simp only [exec, execPull, if_neg hc]; rfl) (h _)
  all_goals
    first
    | exact absurd rfl (h _)
    | obtain ⟨t, ht⟩ := fin _ _; exact absurd ht (h t)

end Sys2Proof.Machine
end

