-- ==== Sys2Proof/Laws/PerInstr.lean ====
section
/-! SUPPORT. One statement about every command as syntax, proved constructor by constructor: its word has RSV = 0 and an
opcode of R96. -/

namespace Sys2Proof.Laws.EncodeFields

/-- The word of a command has RSV = 0 (R91) and names a row of the opcode map (R96). -/
def Statement (i : Instr) : Prop :=
  rsvField (encode i) = 0#16 ∧ (opcodeMap.find? fun r => r.op == opField (encode i)).isSome = true

/-- A command word built from an opcode of the map satisfies the statement. -/
theorem of_opcode {i : Instr} {op : Byte} {k sub : BitVec 4} (h : encode i = commandWord op k sub)
    (hop : (opcodeMap.find? fun r => r.op == op).isSome = true) : Statement i := by
  unfold Statement
  rw [h]
  simp only [rsvField_commandWord, opField_commandWord]
  exact ⟨trivial, hop⟩

theorem nop : Statement .nop := of_opcode rfl rfl
theorem clearErr : Statement .clearErr := of_opcode rfl rfl
theorem softReset : Statement .softReset := of_opcode rfl rfl
theorem setIrqEn (sub : BitVec 4) : Statement (.setIrqEn sub) := of_opcode rfl rfl
theorem setMaxv : Statement .setMaxv := of_opcode rfl rfl
theorem setSeed : Statement .setSeed := of_opcode rfl rfl
theorem setWave (k sub : BitVec 4) : Statement (.setWave k sub) := of_opcode rfl rfl
theorem setFreq (k : BitVec 4) : Statement (.setFreq k) := of_opcode rfl rfl
theorem setRatio (k : BitVec 4) : Statement (.setRatio k) := of_opcode rfl rfl
theorem setAmp (k : BitVec 4) : Statement (.setAmp k) := of_opcode rfl rfl
theorem setFixed (k sub : BitVec 4) : Statement (.setFixed k sub) := of_opcode rfl rfl
theorem setDisabled (k sub : BitVec 4) : Statement (.setDisabled k sub) := of_opcode rfl rfl
theorem setPresent (k sub : BitVec 4) : Statement (.setPresent k sub) := of_opcode rfl rfl
theorem setTargets (k : BitVec 4) : Statement (.setTargets k) := of_opcode rfl rfl
theorem setAttack (k : BitVec 4) : Statement (.setAttack k) := of_opcode rfl rfl
theorem setDecay (k : BitVec 4) : Statement (.setDecay k) := of_opcode rfl rfl
theorem setSustain (k : BitVec 4) : Statement (.setSustain k) := of_opcode rfl rfl
theorem setRelease (k : BitVec 4) : Statement (.setRelease k) := of_opcode rfl rfl
theorem setAtarget (k : BitVec 4) : Statement (.setAtarget k) := of_opcode rfl rfl
theorem setDrtarget (k : BitVec 4) : Statement (.setDrtarget k) := of_opcode rfl rfl
theorem applyPreset (sub : BitVec 4) : Statement (.applyPreset sub) := of_opcode rfl rfl
theorem setAmEnable (sub : BitVec 4) : Statement (.setAmEnable sub) := of_opcode rfl rfl
theorem setAmWave (sub : BitVec 4) : Statement (.setAmWave sub) := of_opcode rfl rfl
theorem setAmFreq : Statement .setAmFreq := of_opcode rfl rfl
theorem setAmAmp : Statement .setAmAmp := of_opcode rfl rfl
theorem setPass (sub : BitVec 4) : Statement (.setPass sub) := of_opcode rfl rfl
theorem noteOn : Statement .noteOn := of_opcode rfl rfl
theorem noteOff : Statement .noteOff := of_opcode rfl rfl
theorem pull : Statement .pull := of_opcode rfl rfl

end Sys2Proof.Laws.EncodeFields
end

