-- ==== Sys2Proof/Laws/Voices.lean ====
section
/-! SUPPORT. The voice table's operations (Machine/Voices.lean), each said once: counting, placing, dropping, the oldest
voice, eviction. -/

namespace Sys2Proof.Machine

/-! ### The slots the operations make -/

@[simp] theorem Voice.reset_valid : Voice.reset.valid = false := rfl
@[simp] theorem newVoice_valid (s : State) : (newVoice s).valid = true := rfl
@[simp] theorem newVoice_seq (s : State) : (newVoice s).seq = s.vseq := rfl
@[simp] theorem newVoice_note (s : State) : (newVoice s).note = s.arg0 := rfl
@[simp] theorem invalidate_valid (v : Voice) : (invalidate v).valid = false := rfl
@[simp] theorem releaseVoice_valid (v : Voice) : (releaseVoice v).valid = v.valid := rfl
@[simp] theorem releaseVoice_seq (v : Voice) : (releaseVoice v).seq = v.seq := rfl
@[simp] theorem voiceBlock_valid (s : State) (v : Voice) : (voiceBlock s v).2.valid = v.valid := rfl
@[simp] theorem voiceBlock_seq (s : State) (v : Voice) : (voiceBlock s v).2.seq = v.seq := rfl
@[simp] theorem voiceBlock_note (s : State) (v : Voice) : (voiceBlock s v).2.note = v.note := rfl

/-- NOTE_OFF changes no slot's validity (R230, R244). -/
@[simp] theorem releaseIfNote_valid (note : Word) (v : Voice) : (releaseIfNote note v).valid = v.valid := by
  unfold releaseIfNote; split <;> simp

/-- An invalid slot takes no part in a PULL (R45). -/
theorem pulledSlot_of_invalid {s : State} {v : Voice} (h : v.valid = false) : pulledSlot s v = v := by
  simp [pulledSlot, h]

/-! ### Counting -/

@[simp] theorem validVoices_nil : validVoices [] = [] := rfl
theorem validVoices_cons (v : Voice) (vs : List Voice) :
    validVoices (v :: vs) = if v.valid then v :: validVoices vs else validVoices vs := by
  cases h : v.valid <;> simp [validVoices, h]

@[simp] theorem voiceCount_nil : voiceCount [] = 0 := rfl
theorem voiceCount_cons (v : Voice) (vs : List Voice) :
    voiceCount (v :: vs) = if v.valid then voiceCount vs + 1 else voiceCount vs := by
  cases h : v.valid <;> simp [voiceCount, validVoices_cons, h]

theorem mem_validVoices {v : Voice} {vs : List Voice} : v ∈ validVoices vs ↔ v ∈ vs ∧ v.valid = true := by
  simp [validVoices]

theorem voiceCount_le_length (vs : List Voice) : voiceCount vs ≤ vs.length := List.length_filter_le _ vs

/-- A table with fewer voices than slots has a free slot. -/
theorem exists_free {vs : List Voice} (h : voiceCount vs < vs.length) : ∃ u ∈ vs, u.valid = false := by
  by_contra hn
  push Not at hn
  have : vs.filter (·.valid) = vs := List.filter_eq_self.2 fun u hu => by simpa using hn u hu
  simp [voiceCount, validVoices, this] at h

/-! ### Placing and dropping -/

/-- A placed voice stands in the lowest-numbered free slot, and nothing else moves (R227). -/
theorem placeVoice_eq_some {v : Voice} {vs ws : List Voice} (h : placeVoice v vs = some ws) :
    ∃ i : Nat, (∃ u, vs[i]? = some u ∧ u.valid = false) ∧ (∀ j < i, ∃ u, vs[j]? = some u ∧ u.valid = true) ∧
      ws = vs.set i v := by
  induction vs generalizing ws with
  | nil => simp [placeVoice] at h
  | cons u rest ih =>
    cases hu : u.valid with
    | false =>
      refine ⟨0, ⟨u, rfl, hu⟩, fun j hj => absurd hj (Nat.not_lt_zero j), ?_⟩
      simpa [placeVoice, hu] using h.symm
    | true =>
      simp only [placeVoice, hu, if_true, Option.map_eq_some_iff] at h
      obtain ⟨ys, hys, rfl⟩ := h
      obtain ⟨i, hi, hlt, rfl⟩ := ih hys
      refine ⟨i + 1, hi, fun j hj => ?_, rfl⟩
      cases j with
      | zero => exact ⟨u, rfl, hu⟩
      | succ j => exact hlt j (by omega)

/-- A voice finds a place exactly when a slot is free. -/
theorem placeVoice_isSome {v : Voice} {vs : List Voice} :
    (placeVoice v vs).isSome = true ↔ ∃ u ∈ vs, u.valid = false := by
  induction vs with
  | nil => simp [placeVoice]
  | cons u rest ih => cases hu : u.valid <;> simp [placeVoice, hu, ih]

@[simp] theorem dropSeq_length (q : BitVec 64) (vs : List Voice) : (dropSeq q vs).length = vs.length := by
  induction vs with
  | nil => rfl
  | cons v rest ih => simp only [dropSeq]; split <;> simp [ih]

/-- Dropping a sequence number that is there frees one slot. -/
theorem dropSeq_count {q : BitVec 64} {vs : List Voice} (h : ∃ v ∈ validVoices vs, v.seq = q) :
    voiceCount (dropSeq q vs) + 1 = voiceCount vs := by
  induction vs with
  | nil => simp at h
  | cons v rest ih =>
    simp only [dropSeq]
    split
    · rename_i hv; simp [voiceCount_cons, hv.1]
    · rename_i hv
      obtain ⟨u, hu, hq⟩ := h
      obtain ⟨hm, huv⟩ := mem_validVoices.1 hu
      rcases List.mem_cons.1 hm with rfl | hm
      · exact absurd ⟨huv, hq⟩ hv
      · have := ih ⟨u, mem_validVoices.2 ⟨hm, huv⟩, hq⟩
        simp only [voiceCount_cons]
        split <;> omega

/-- A slot after dropping is as it was, or it held a voice with that number and is now invalid. -/
theorem dropSeq_get {q : BitVec 64} {vs : List Voice} (i : Nat) :
    (dropSeq q vs)[i]? = vs[i]? ∨
      ∃ v, vs[i]? = some v ∧ v.valid = true ∧ v.seq = q ∧ (dropSeq q vs)[i]? = some (invalidate v) := by
  induction vs generalizing i with
  | nil => exact .inl rfl
  | cons v rest ih =>
    simp only [dropSeq]
    split
    · rename_i hv
      cases i with
      | zero => exact .inr ⟨v, rfl, hv.1, hv.2, rfl⟩
      | succ i => exact .inl rfl
    · cases i with
      | zero => exact .inl rfl
      | succ i => exact ih i

/-- One round of the search for the oldest voice. -/
theorem oldest_fold {vs : List Voice} {b : Option (BitVec 64)} {q : BitVec 64}
    (h : vs.foldl (fun best v =>
      match best with
      | none => some v.seq
      | some p => some (if v.seq.toNat < p.toNat then v.seq else p)) b = some q) :
    (b = some q ∨ ∃ v ∈ vs, v.seq = q) ∧ (∀ p, b = some p → q.toNat ≤ p.toNat) ∧ ∀ v ∈ vs, q.toNat ≤ v.seq.toNat := by
  induction vs generalizing b with
  | nil => exact ⟨.inl h, fun p hp => by rw [List.foldl_nil, hp] at h; injection h with h; rw [h], by simp⟩
  | cons x xs ih =>
    obtain ⟨h1, h2, h3⟩ := ih h
    cases b with
    | none =>
      have hx := h2 x.seq rfl
      refine ⟨.inr ?_, by simp, by simpa using ⟨hx, h3⟩⟩
      rcases h1 with h1 | ⟨v, hv, hq⟩
      · exact ⟨x, by simp, by injection h1⟩
      · exact ⟨v, by simp [hv], hq⟩
    | some p =>
      have hm := h2 _ rfl
      refine ⟨?_, ?_, ?_⟩
      · rcases h1 with h1 | ⟨v, hv, hq⟩
        · injection h1 with h1
          split at h1
          · exact .inr ⟨x, by simp, h1⟩
          · exact .inl (by rw [h1])
        · exact .inr ⟨v, by simp [hv], hq⟩
      · intro r hr
        injection hr with hr
        subst hr
        split at hm <;> omega
      · intro v hv
        rcases List.mem_cons.1 hv with rfl | hv
        · split at hm <;> omega
        · exact h3 v hv

/-- The oldest voice is a valid one, and none is older (R228). -/
theorem oldestSeq_eq_some {vs : List Voice} {q : BitVec 64} (h : oldestSeq vs = some q) :
    (∃ v ∈ validVoices vs, v.seq = q) ∧ ∀ v ∈ validVoices vs, q.toNat ≤ v.seq.toNat := by
  obtain ⟨h1, -, h3⟩ := oldest_fold h
  exact ⟨h1.resolve_left (by simp), h3⟩

@[simp] theorem evictOldest_length (vs : List Voice) : (evictOldest vs).length = vs.length := by
  unfold evictOldest; split <;> simp

@[simp] theorem evictWhileFull_length (maxv fuel : Nat) (vs : List Voice) :
    (evictWhileFull maxv fuel vs).length = vs.length := by
  induction fuel generalizing vs with
  | zero => rfl
  | succ n ih => simp only [evictWhileFull]; split <;> simp [ih]

end Sys2Proof.Machine
end

