-- ==== Sys2Proof/Tests/Slice0.lean ====
section
/-! SUPPORT. Tests with expected results from the spec (the rule or vector of 95_test_vectors.md is named), and for every
statement with hypotheses a concrete state that meets them. -/

namespace Sys2Proof.Tests

set_option Elab.async false

open Sys2Proof.Machine

/-! ### Helpers -/

/-- Whether an answer is a next state of which `p` holds. -/
def answers (r : Result) (p : State → Bool) : Bool :=
  match r with
  | .next t => p t
  | .fault _ => false
  | .refused _ => false

/-- Reset with operands in ARG0 and ARG1. -/
def withArgs (a0 a1 : Word) : State := { State.reset with arg0 := a0, arg1 := a1 }

/-- A square carrier in slot A: `SET_WAVE A, SQUARE`, `SET_PRESENT A, ON`. -/
def squareA : State :=
  { State.reset with
    templates := { State.reset.templates with a := { Template.reset with wave := .square, present := true } } }

/-- A new voice at note `n` with number `q`, as NOTE_ON makes it (R229). -/
def voiceAt (q : BitVec 64) (n : Word) : Voice := newVoice { State.reset with vseq := q, arg0 := n }

/-- Slot A carries, and the voices of seq 0 (note 10) and seq 1 (note 20) sound, MAXV 2. -/
def twoVoices : State :=
  { squareA with
    voices := [voiceAt 0#64 10#32, Voice.reset, voiceAt 1#64 20#32, Voice.reset]
    vseq := 2#64
    maxv := 2#8
    arg0 := 10#32 }

/-- Slot A modulates slot B, both present. -/
def aToB : State :=
  { State.reset with
    templates :=
      { State.reset.templates with
        a := { Template.reset with present := true, targets := 0b0010#4 }
        b := { Template.reset with present := true } } }

/-- All four slots present, no targets. -/
def allPresent : State :=
  { State.reset with templates := Quad.ofFn fun _ => { Template.reset with present := true } }

/-- A graph whose edges all lead to a later slot is acyclic. -/
theorem acyclic_of_rising {ts : Quad Template} (h : ∀ a b, edge ts a b = true → a.index < b.index) : Acyclic ts := by
  have step : ∀ a b, Relation.TransGen (fun x y => edge ts x y = true) a b → a.index < b.index := by
    intro a b hab
    induction hab with
    | single e => exact h _ _ e
    | tail _ e ih => exact Nat.lt_trans ih (h _ _ e)
  exact fun k hk => Nat.lt_irrefl _ (step k k hk)

/-- A slot that modulates itself makes the graph cyclic (R210). -/
theorem not_acyclic_of_loop {ts : Quad Template} (k : Slot) (h : edge ts k k = true) : ¬ Acyclic ts :=
  fun ha => ha k (.single h)

theorem acyclic_reset : Acyclic State.reset.templates :=
  acyclic_of_rising (by intro a b; cases a <;> cases b <;> decide)
theorem acyclic_squareA : Acyclic squareA.templates := acyclic_of_rising (by intro a b; cases a <;> cases b <;> decide)
theorem acyclic_aToB : Acyclic aToB.templates := acyclic_of_rising (by intro a b; cases a <;> cases b <;> decide)

/-! ### WellFormed: each check refuses an ill-formed term (R92, R94) -/

theorem test_wf_slot : (Instr.setFreq 4#4).wellFormed = false ∧ (Instr.setFreq 3#4).wellFormed = true := by decide
theorem test_wf_flag : (Instr.setIrqEn 2#4).wellFormed = false ∧ (Instr.setIrqEn 1#4).wellFormed = true := by decide
theorem test_wf_three : (Instr.setPass 3#4).wellFormed = false ∧ (Instr.setAmWave 2#4).wellFormed = true := by decide
theorem test_wf_preset : (Instr.applyPreset 4#4).wellFormed = false ∧ (Instr.applyPreset 3#4).wellFormed = true := by
  decide
theorem test_wf_both : (Instr.setWave 4#4 0#4).wellFormed = false ∧ (Instr.setWave 0#4 3#4).wellFormed = false ∧
    (Instr.setPresent 3#4 1#4).wellFormed = true := by decide

/-! ### Decoding: each row's word written out from its pattern `RRRRRRRRRRRRRRRRSSSSKKKKOOOOOOOO` (R91, R96) -/

theorem test_decode_system :
    decode 0b0000000000000000_0000_0000_00000000#32 = .ok .nop ∧
    decode 0b0000000000000000_0000_0000_00000001#32 = .ok .clearErr ∧
    decode 0b0000000000000000_0000_0000_00000010#32 = .ok .softReset ∧
    decode 0b0000000000000000_0001_0000_00000011#32 = .ok (.setIrqEn 1#4) ∧
    decode 0b0000000000000000_0000_0000_00000100#32 = .ok .setMaxv ∧
    decode 0b0000000000000000_0000_0000_00000101#32 = .ok .setSeed := by decide

theorem test_decode_oscillators :
    decode 0b0000000000000000_0001_0010_00010000#32 = .ok (.setWave 2#4 1#4) ∧
    decode 0b0000000000000000_0000_0011_00010001#32 = .ok (.setFreq 3#4) ∧
    decode 0b0000000000000000_0000_0001_00010010#32 = .ok (.setRatio 1#4) ∧
    decode 0b0000000000000000_0000_0010_00010011#32 = .ok (.setAmp 2#4) ∧
    decode 0b0000000000000000_0001_0011_00010100#32 = .ok (.setFixed 3#4 1#4) ∧
    decode 0b0000000000000000_0001_0000_00010101#32 = .ok (.setDisabled 0#4 1#4) := by decide

theorem test_decode_routing :
    decode 0b0000000000000000_0001_0010_00010110#32 = .ok (.setPresent 2#4 1#4) ∧
    decode 0b0000000000000000_0000_0001_00010111#32 = .ok (.setTargets 1#4) ∧
    decode 0b0000000000000000_0011_0000_00100000#32 = .ok (.applyPreset 3#4) := by decide

theorem test_decode_envelope :
    decode 0b0000000000000000_0000_0001_00011000#32 = .ok (.setAttack 1#4) ∧
    decode 0b0000000000000000_0000_0010_00011001#32 = .ok (.setDecay 2#4) ∧
    decode 0b0000000000000000_0000_0011_00011010#32 = .ok (.setSustain 3#4) ∧
    decode 0b0000000000000000_0000_0001_00011011#32 = .ok (.setRelease 1#4) ∧
    decode 0b0000000000000000_0000_0010_00011100#32 = .ok (.setAtarget 2#4) ∧
    decode 0b0000000000000000_0000_0011_00011101#32 = .ok (.setDrtarget 3#4) := by decide

theorem test_decode_modulation :
    decode 0b0000000000000000_0001_0000_00110000#32 = .ok (.setAmEnable 1#4) ∧
    decode 0b0000000000000000_0010_0000_00110001#32 = .ok (.setAmWave 2#4) ∧
    decode 0b0000000000000000_0000_0000_00110010#32 = .ok .setAmFreq ∧
    decode 0b0000000000000000_0000_0000_00110011#32 = .ok .setAmAmp ∧
    decode 0b0000000000000000_0010_0000_00111000#32 = .ok (.setPass 2#4) := by decide

theorem test_decode_voices :
    decode 0b0000000000000000_0000_0000_01000000#32 = .ok .noteOn ∧
    decode 0b0000000000000000_0000_0000_01000001#32 = .ok .noteOff ∧
    decode 0b0000000000000000_0000_0000_01010000#32 = .ok .pull := by decide

/-- V1: the rejected words whose cause the decoder sees. -/
theorem test_decode_rejects :
    decode 0x00010000#32 = .error .reservedField ∧ decode 0x00000006#32 = .error .illegalOpcode ∧
    decode 0x0000F0FF#32 = .error .illegalOpcode ∧ decode 0x00010510#32 = .error .reservedField ∧
    decode 0x00000140#32 = .error .reservedField ∧ decode 0x00001050#32 = .error .reservedField ∧
    decode 0x80000050#32 = .error .reservedField := by decide

/-- The host's two questions, on a word of V1. -/
theorem test_table_word : decodeTableWord 32 0x00001110 = some (.setWave 1#4 1#4) := by decide
theorem test_fetch_word :
    step (State.reset.withFetchWord 32 0x00001110) = exec (.setWave 1#4 1#4) { State.reset with resp := .writeDone } := rfl

/-- V1: the words the commands themselves reject, with ERRCODE and ERRCMD. -/
theorem test_v1_codes :
    answers (runCommand 0x00000510#32 State.reset) (fun t => t.errCode == 3#8 && t.errCmd == 0x00000510#32) = true ∧
    answers (runCommand 0x00003010#32 State.reset) (fun t => t.errCode == 2#8) = true ∧
    answers (runCommand 0x00004020#32 State.reset) (fun t => t.errCode == 2#8) = true ∧
    answers (runCommand 0x00002016#32 State.reset) (fun t => t.errCode == 2#8) = true ∧
    answers (runCommand 0x00000116#32 State.reset) (fun t => !t.err) = true := by decide

/-! ### Bus (V2) -/

theorem test_reset_reads :
    let s := State.resetFor ⟨4, 4, 16#16⟩
    [0x00#16, 0x04#16, 0x20#16, 0x24#16, 0x28#16, 0x2C#16, 0x30#16, 0x8020#16].map (readWord s) =
      [0x50530007#32, 0#32, 0x04040004#32, 0x10#32, 4#32, 0x2545F491#32, 0#32, 0#32] := by decide +kernel
theorem test_param_maxima : paramWord ⟨4096, 255, 0xFFFF#16⟩ = 0x04FF1000#32 := by decide
theorem test_out_read :
    let s := { State.reset with out := [0x3FE0000000000000#64, 0xBFE0000000000000#64, 0#64, 0#64] }
    readWord s 0x8004#16 = 0x3FE00000#32 ∧ readWord s 0x800C#16 = 0xBFE00000#32 ∧ readWord s 0x8008#16 = 0#32 := by
  decide +kernel

/-! ### Binary64 (R10; hand calculation) -/

/-- 0.1 + 0.2 = 0.30000000000000004; 1 + 2^-53 ties to even; -0.0 + +0.0 = +0.0. -/
theorem test_add : fAdd 0x3FB999999999999A#64 0x3FC999999999999A#64 = 0x3FD3333333333334#64 ∧
    fAdd fOne 0x3CA0000000000000#64 = fOne ∧ fAdd fNegZero fZero = fZero := by decide +kernel
/-- 1/3 = 0x3FD5555555555555 (R146); 1/0 = infinity. -/
theorem test_div : fDiv fOne (fOfNat 3) = 0x3FD5555555555555#64 ∧ fDiv fOne fZero = fInf false := by decide +kernel
/-- R114: `rad(0x40000000)` and `rad(0x80000000)`. -/
theorem test_rad : rad 0x40000000#32 = 0x3FF921FB54442D18#64 ∧ rad 0x80000000#32 = 0x400921FB54442D18#64 := by
  decide +kernel

/-! ### Oscillators and noise (V3) -/

theorem test_increment :
    phaseIncrement { Template.reset with ratio := 0x00018000#32 } 3#32 = 4#32 ∧
    phaseIncrement { Template.reset with ratio := 0xFFFFFFFF#32 } 0xFFFFFFFF#32 = 0xFFFE0000#32 := by decide
theorem test_noise : noiseStep 1#32 = 0x00042021#32 ∧ noiseStep 0xFFFFFFFF#32 = 0x0003E01F#32 ∧
    noiseSample 0x00042021#32 = 0xBFEFFEF7F7C00000#64 := by decide +kernel
theorem test_seeds : noiseSeedFor 0x2545F491#32 0#64 0 = 0xC37D6E4A#32 ∧ noiseSeedFor 0x2545F491#32 1#64 4 = 0x5370B5CB#32 ∧
    noiseSeedFor 0x61C88647#32 0#64 0 = 1#32 := by decide

/-! ### Commands, one step each -/

/-- R125 example: word 0x00001110. -/
theorem test_setWave : answers (exec (.setWave 1#4 1#4) State.reset) (fun t => t.templates.b.wave == .square) = true := by
  decide
/-- R126 example. -/
theorem test_setFreq :
    answers (exec (.setFreq 0#4) (withArgs 0x40000000#32 0#32)) (fun t => t.templates.a.freq == 0x40000000#32) = true := by
  decide
/-- R127 example. -/
theorem test_setRatio :
    answers (exec (.setRatio 2#4) (withArgs 0x00020000#32 0#32)) (fun t => t.templates.c.ratio == 0x00020000#32) = true := by
  decide
/-- R128 example; NaN is refused. -/
theorem test_setAmp :
    answers (exec (.setAmp 0#4) (withArgs 0#32 0x3FE00000#32)) (fun t => t.templates.a.amp == 0x3FE0000000000000#64) = true ∧
    answers (exec (.setAmp 0#4) (withArgs 1#32 0x7FF00000#32)) (fun t => t.errCode == 4#8 && t.templates.a.amp == fOne) = true := by
  decide +kernel
/-- R129 example. -/
theorem test_setFixed : answers (exec (.setFixed 3#4 1#4) State.reset) (fun t => t.templates.d.fixed) = true := by decide
/-- R130 example. -/
theorem test_setDisabled : answers (exec (.setDisabled 0#4 1#4) State.reset) (fun t => t.templates.a.disabled) = true := by
  decide
/-- P3 steps 5 and 6: a self target of an absent slot is accepted, and then SET_PRESENT is refused. -/
theorem test_setTargets :
    answers (exec (.setTargets 0#4) (withArgs 1#32 0#32)) (fun t =>
      !t.err && answers (exec (.setPresent 0#4 1#4) t) (fun u => u.errCode == 5#8 && u.errCmd == 0x00001016#32)) = true := by
  decide +kernel
/-- R211 example. -/
theorem test_setPresent : answers (exec (.setPresent 0#4 1#4) State.reset) (fun t => t.templates.a.present) = true := by
  decide +kernel
/-- R213 example: masks 8, 8, 8, 0. -/
theorem test_applyPreset :
    answers (exec (.applyPreset 3#4) State.reset) (fun t =>
      t.templates.a.targets == 8#4 && t.templates.b.targets == 8#4 && t.templates.c.targets == 8#4 &&
        t.templates.d.targets == 0#4) = true := by decide
/-- R185, R186, R188 examples. -/
theorem test_lengths :
    answers (exec (.setAttack 0#4) (withArgs 4#32 0#32)) (fun t => t.templates.a.att == 4#32) = true ∧
    answers (exec (.setDecay 1#4) (withArgs 7#32 0#32)) (fun t => t.templates.b.dec == 7#32) = true ∧
    answers (exec (.setRelease 3#4) (withArgs 2205#32 0#32)) (fun t => t.templates.d.rel == 2205#32) = true := by decide
/-- R187 example; R189: zero is refused. -/
theorem test_levels :
    answers (exec (.setSustain 2#4) (withArgs 0#32 0x3FE00000#32)) (fun t => t.templates.c.sus == 0x3FE0000000000000#64) = true ∧
    answers (exec (.setAtarget 0#4) (withArgs 0#32 0#32)) (fun t => t.errCode == 4#8) = true ∧
    answers (exec (.setDrtarget 3#4) (withArgs 1#32 0#32)) (fun t => t.templates.d.drtgt == 1#64) = true := by decide +kernel
/-- R154 to R157 examples. -/
theorem test_tremolo :
    answers (exec (.setAmEnable 1#4) State.reset) (fun t => t.tremolo.en) = true ∧
    answers (exec (.setAmWave 1#4) State.reset) (fun t => t.tremolo.wave == .square) = true ∧
    answers (exec .setAmFreq (withArgs 0x00100000#32 0#32)) (fun t => t.tremolo.freq == 0x00100000#32) = true ∧
    answers (exec .setAmAmp (withArgs 0#32 0x3FE00000#32)) (fun t => t.tremolo.amp == 0x3FE0000000000000#64) = true := by
  decide +kernel
/-- V4: a cutoff of 0 is refused for LOW and ignored for NONE. -/
theorem test_setPass :
    answers (exec (.setPass 1#4) State.reset) (fun t => t.errCode == 4#8 && t.pass.type == .none) = true ∧
    answers (exec (.setPass 0#4) State.reset) (fun t => !t.err && t.pass.cutoff == 0x40000000#32) = true := by decide
/-- P3 steps 7 and 8: a second error sets ERR_OVF only, CLEAR_ERR clears all. -/
theorem test_errors :
    answers (runCommand 0x00001510#32 (raiseError .routingCycle 0x00001016#32 { State.reset with irqEn := true }))
      (fun t => statusWord t == 0x0000000F#32 && t.errCode == 5#8 && t.errCmd == 0x00001016#32 &&
        answers (exec .clearErr t) (fun u => statusWord u == 4#32)) = true := by decide
/-- R259: SOFT_RESET. -/
theorem test_softReset : exec .softReset twoVoices = .next State.reset := rfl
/-- R260, R261, R242 examples. -/
theorem test_system :
    answers (exec (.setIrqEn 1#4) State.reset) (fun t => t.irqEn) = true ∧
    answers (exec .setSeed (withArgs 0x12345678#32 0#32)) (fun t => readWord t 0x2C#16 == 0x12345678#32) = true ∧
    answers (exec .setMaxv (withArgs 4#32 0#32)) (fun t => t.maxv == 4#8) = true ∧
    answers (exec .setMaxv (withArgs 5#32 0#32)) (fun t => t.errCode == 4#8) = true := by decide
/-- X5: the voice with the smallest number goes, and its slot is taken. -/
theorem test_noteOn :
    answers (exec .noteOn twoVoices) (fun t =>
      t.voices == [voiceAt 2#64 10#32, Voice.reset, voiceAt 1#64 20#32, Voice.reset] && t.vseq == 3#64) = true := by
  decide +kernel
/-- X5, last step: after SET_MAXV #2, NOTE_ON #60 evicts seq 1, 2 and 3 and takes the lowest free slot; the slots of seq 2
and 3 stay invalid. -/
theorem test_noteOn_evicts_three :
    answers (exec .noteOn { squareA with
      voices := [voiceAt 4#64 50#32, voiceAt 1#64 20#32, voiceAt 2#64 30#32, voiceAt 3#64 40#32]
      vseq := 5#64, maxv := 2#8, arg0 := 60#32 }) (fun t =>
      t.voices.map (·.valid) == [true, true, false, false] && readWord t 0x0004#16 == 0x00000200#32 &&
        t.voices[0]? == some (voiceAt 4#64 50#32) && t.voices[1]? == some (voiceAt 5#64 60#32)) = true := by decide +kernel
/-- R45: at reset the fields of an invalid slot are 0 and +0.0. -/
theorem test_reset_slots : State.reset.voices = List.replicate 4
    ⟨false, 0#64, 0#32, Quad.ofFn fun _ => ⟨0#32, .attack, 0#64, 0#32⟩, 0#32, 0#32, 0#64, 0#16⟩ := by decide
/-- R230: the voice of note 10 is released, the other stays in ATTACK. -/
theorem test_noteOff :
    answers (exec .noteOff twoVoices) (fun t =>
      (validVoices t.voices).map (fun v => v.osc.d.est) == [.release, .attack]) = true := by decide
/-- V3 "square, ratio 1.5" without the ratio: increment 0x30000000 gives 1, 1, 1, -1. -/
theorem test_pull_square :
    answers (exec .pull { squareA with voices := [voiceAt 0#64 0x30000000#32] }) (fun t =>
      t.out == [fOne, fOne, fOne, fMinusOne] && t.blockCount == 1#32 &&
        (validVoices t.voices).map (fun v => v.osc.a.ph) == [0xC0000000#32]) = true := by decide +kernel
/-- P2 step 6: the first fade block, with FADE_LEN = 4 and phases 0, 1/4, 1/2, 3/4. -/
theorem test_pull_fade :
    answers (exec .pull { squareA with build := ⟨4, 4, 4#16⟩, voices := [voiceAt 0#64 0x40000000#32] }) (fun t =>
      t.out == [fZero, 0x3FD0000000000000#64, 0xBFE0000000000000#64, 0xBFE8000000000000#64]) = true := by decide +kernel

/-- X6 (P1): after NOTE_OFF with REL = 0 the voice's zeros, and the voice is gone. -/
theorem test_pull_prunes :
    answers (exec .pull { squareA with voices := [releaseVoice (voiceAt 0#64 0x40000000#32)] }) (fun t =>
      t.out == [fZero, fZero, fNegZero, fNegZero] && t.voices.map (·.valid) == [false]) = true := by decide +kernel

/-! ### Witnesses: for each statement with hypotheses, states and operands that meet them (in the statements' order) -/

theorem witness_EncodeOfDecode : decode 0x00001110#32 = .ok (.setWave 1#4 1#4) := by decide

theorem witness_IllegalOpcodesAreRaised :
    ∀ op ∈ [0x06, 0x0F, 0x1E, 0x1F, 0x21, 0x2F, 0x34, 0x37, 0x39, 0x3F, 0x42, 0x4F, 0x51, 0xFF],
      let w : Word := BitVec.ofNat 32 (0xFFFFFF00 + op)
      w.toNat % 256 = op ∧ decode w = .error .illegalOpcode ∧
        ((0x06 ≤ op ∧ op ≤ 0x0F) ∨ (0x1E ≤ op ∧ op ≤ 0x1F) ∨ (0x21 ≤ op ∧ op ≤ 0x2F) ∨ (0x34 ≤ op ∧ op ≤ 0x37) ∨
          (0x39 ≤ op ∧ op ≤ 0x3F) ∨ (0x42 ≤ op ∧ op ≤ 0x4F) ∨ (0x51 ≤ op ∧ op ≤ 0xFF)) := by decide +kernel

/-- Its clauses: RSV not 0; an unused K; S one above its range; and a legal word but for K = 4. -/
theorem witness_FieldChecksAreRaised :
    (∀ op ∈ [0x00, 0x05, 0x10, 0x1D, 0x20, 0x38, 0x50], opListed op = true) ∧
    (0x00010000#32).toNat / 65536 ≠ 0 ∧
    (opTakesSlot 0x40 = false ∧ (0x00000140#32).toNat / 256 % 16 ≠ 0) ∧
    opSubValues 0x10 ≤ (0x00003010#32).toNat / 4096 % 16 ∧
    ((0x00002410#32).toNat / 65536 = 0 ∧ (0x00002410#32).toNat / 4096 % 16 < opSubValues 0x10 ∧
      opTakesSlot 0x10 = true ∧ 4 ≤ (0x00002410#32).toNat / 256 % 16) := by decide

theorem witness_StepRunsDecodedCommand :
    ({ State.reset with bus := [.write 0x0010#16 4 0x00000050#32] } : State).bus = [.write 0x0010#16 4 0x00000050#32] ∧
      decode 0x00000050#32 = .ok .pull := by decide

/-- A wrong size at an aligned address, and a misaligned address, each as a read and as a write. -/
theorem witness_UndefinedAccessIsRefused :
    ((8 : Nat) ≠ 4 ∨ (0x0014#16).toNat % 4 ≠ 0) ∧ ((4 : Nat) ≠ 4 ∨ (0x0017#16).toNat % 4 ≠ 0) ∧
    ({ State.reset with bus := [.read 0x0014#16 8] } : State).bus = .read 0x0014#16 8 :: [] ∧
    ({ State.reset with bus := [.write 0x0017#16 4 1#32] } : State).bus = .write 0x0017#16 4 1#32 :: [] := by decide

theorem witness_ReadsAndRegisterWrites :
    ([0x0000#16, 0x0014#16, 0x0018#16, 0xFFFC#16].all fun a => a.toNat % 4 = 0 ∧ a ≠ 0x0010#16) = true ∧
    ({ State.reset with bus := [.read 0xFFFC#16 4] } : State).bus = .read 0xFFFC#16 4 :: [] ∧
    ({ State.reset with bus := [.write 0x0014#16 4 1#32] } : State).bus = .write 0x0014#16 4 1#32 :: [] := by decide

/-- 255 valid voices, the largest and the smallest build, and the reserved addresses next to the registers and to OUT. -/
theorem witness_RegisterMapReads :
    voiceCount (List.replicate 255 (voiceAt 0#64 1#32)) ≤ 255 ∧ Build.Legal ⟨4096, 255, 0xFFFF#16⟩ ∧
    Build.Legal ⟨1, 1, 0#16⟩ ∧ (0x30 ≤ (0x0030#16).toNat ∧ (0x0030#16).toNat < 0x8000) ∧ (0x7FFC#16).toNat < 0x8000 ∧
    0x8000 + 8 * State.reset.build.blockLen ≤ (0x8020#16).toNat ∧
    0x8000 + 8 * State.reset.build.blockLen ≤ (0xFFFC#16).toNat := by decide +kernel

/-- The first and the last sample of the largest OUT window. -/
theorem witness_OutWindowReads :
    Build.Legal ⟨4096, 255, 0#16⟩ ∧ 0 < 4096 ∧ 4095 < 4096 ∧
      (State.resetFor ⟨4096, 255, 0#16⟩).out[0]? = some fZero ∧
      (State.resetFor ⟨4096, 255, 0#16⟩).out[4095]? = some fZero :=
  ⟨by decide, by decide, by decide, List.getElem?_replicate_of_lt (by decide), List.getElem?_replicate_of_lt (by decide)⟩

theorem witness_ResetReads : Build.Legal ⟨1, 1, 0#16⟩ ∧ Build.Legal ⟨4096, 255, 0xFFFF#16⟩ ∧
    ([0x0004#16, 0x0030#16, 0x8000#16, 0xFFFC#16].all fun a => a.toNat % 4 = 0 ∧ a ≠ 0x0000#16 ∧ a ≠ 0x0020#16 ∧
      a ≠ 0x0024#16 ∧ a ≠ 0x0028#16 ∧ a ≠ 0x002C#16) = true := by decide

theorem witness_AccessesRunInOrder :
    (∃ t, runBus [.write 0x0014#16 4 7#32, .read 0x0014#16 4] State.reset = .next t ∧ t.arg0 = 7#32) ∧
    ∃ t, runBus [.rst] { twoVoices with bus := [] } = .next t := ⟨⟨_, rfl, rfl⟩, ⟨_, rfl⟩⟩

theorem witness_ErrorProcedure :
    State.reset.err = false ∧ (raiseError .badSlot 0x00000411#32 State.reset).err = true := by decide

/-- Accepted and rejected. -/
theorem witness_RejectedCommandsHaveNoOtherEffect :
    (∃ t, exec .setSeed State.reset = .next t) ∧ (∃ t, exec .setMaxv State.reset = .next t ∧ t.err = true) ∧
      Instr.setSeed ≠ .clearErr ∧ Instr.setSeed ≠ .softReset ∧ Instr.setMaxv ≠ .clearErr ∧ Instr.setMaxv ≠ .softReset :=
  ⟨⟨_, rfl⟩, ⟨_, rfl, rfl⟩, by decide, by decide, by decide, by decide⟩

/-- One rejected command for each error code. -/
theorem witness_RaisedErrorsAreListed :
    Acyclic State.reset.templates ∧ State.reset.err = false ∧
    (∃ t, exec (.setIrqEn 2#4) State.reset = .next t ∧ t.err = true ∧ t.errCode = 2#8) ∧
    (∃ t, exec (.setFreq 4#4) State.reset = .next t ∧ t.err = true ∧ t.errCode = 3#8) ∧
    (∃ t, exec .setMaxv State.reset = .next t ∧ t.err = true ∧ t.errCode = 4#8) ∧
    ((withArgs 1#32 0#32).err = false ∧ Acyclic squareA.templates ∧
      ∃ t, exec (.setTargets 0#4) { squareA with arg0 := 1#32 } = .next t ∧ t.err = true ∧ t.errCode = 5#8) :=
  ⟨acyclic_reset, rfl, ⟨_, rfl, rfl, rfl⟩, ⟨_, rfl, rfl, rfl⟩, ⟨_, rfl, rfl, rfl⟩, rfl, acyclic_squareA,
    ⟨_, rfl, rfl, rfl⟩⟩

theorem witness_SystemCommandsComplete : 2 ≤ (2#4).toNat ∧ 2 ≤ (15#4).toNat := by decide

theorem witness_BothResetsGiveTheResetState :
    ({ twoVoices with bus := [.rst, .read 0#16 4] } : State).bus = .rst :: [.read 0#16 4] := rfl

/-- ARG0 at 1 and VMAX, and just outside. -/
theorem witness_SetMaxvChecksItsRange :
    State.reset.build.vmax ≤ 255 ∧ (1 ≤ (1#32).toNat ∧ (1#32).toNat ≤ State.reset.build.vmax) ∧
    (1 ≤ (4#32).toNat ∧ (4#32).toNat ≤ State.reset.build.vmax) ∧ (0#32).toNat < 1 ∧
    State.reset.build.vmax < (5#32).toNat := by decide

/-- 0.0, 1.0 and -0.0, and the encodings next to them. -/
theorem witness_UnitRangeCommands :
    (0x0000000000000000#64 = (withArgs 0#32 0#32).arg1 ++ (withArgs 0#32 0#32).arg0) ∧
    ([0x0000000000000000#64, 0x3FF0000000000000#64, 0x8000000000000000#64].all fun x =>
      x.toNat ≤ 0x3FF0000000000000 ∨ x.toNat = 0x8000000000000000) = true ∧
    ([0x3FF0000000000001#64, 0x7FFFFFFFFFFFFFFF#64, 0x8000000000000001#64].all fun x =>
      ¬ (x.toNat ≤ 0x3FF0000000000000 ∨ x.toNat = 0x8000000000000000)) = true := by decide +kernel

theorem witness_TargetOffsetCommands :
    (0x0000000000000001#64 = (withArgs 1#32 0#32).arg1 ++ (withArgs 1#32 0#32).arg0) ∧
    ([0x0000000000000001#64, 0x7FEFFFFFFFFFFFFF#64].all fun x => 1 ≤ x.toNat ∧ x.toNat ≤ 0x7FEFFFFFFFFFFFFF) = true ∧
    ([0x0000000000000000#64, 0x7FF0000000000000#64].all fun x => x.toNat < 1 ∨ 0x7FEFFFFFFFFFFFFF < x.toNat) = true := by decide +kernel

theorem witness_SetPassComputesCoefficients :
    ([1#32, 0x7FFFFFFF#32].all fun c => 1 ≤ (withArgs c 0#32).arg0.toNat ∧ (withArgs c 0#32).arg0.toNat ≤ 0x7FFFFFFF) = true ∧
    ([0#32, 0x80000000#32].all fun c => (withArgs c 0#32).arg0.toNat < 1 ∨ 0x7FFFFFFF < (withArgs c 0#32).arg0.toNat) = true := by
  decide

/-- Adding B to A's chain; adding a slot that targets itself; removing A. -/
theorem witness_SetPresentKeepsRoutingAcyclic :
    Acyclic (squareA.templates.set .B { squareA.templates.get .B with present := true }) ∧
    ¬ Acyclic (Quad.set ⟨{ Template.reset with targets := 1#4 }, Template.reset, Template.reset, Template.reset⟩ .A
      { Template.reset with targets := 1#4, present := true }) ∧
    (false = false ∧ Acyclic squareA.templates) :=
  ⟨acyclic_of_rising (by intro a b; cases a <;> cases b <;> decide), not_acyclic_of_loop .A (by decide), rfl,
    acyclic_squareA⟩

/-- ARG0 at 15 on an absent slot, at 1 on slot A present, and at 16. -/
theorem witness_SetTargetsKeepsRoutingAcyclic :
    ((15#32).toNat < 16 ∧ Acyclic (squareA.templates.set .B { squareA.templates.get .B with targets := 15#4 })) ∧
    ((1#32).toNat < 16 ∧ ¬ Acyclic (squareA.templates.set .A { squareA.templates.get .A with targets := 1#4 })) ∧
    16 ≤ (16#32).toNat :=
  ⟨⟨by decide, acyclic_of_rising (by intro a b; cases a <;> cases b <;> decide)⟩,
    ⟨by decide, not_acyclic_of_loop .A (by decide)⟩, by decide⟩

theorem witness_PresetsWriteAcyclicMasks :
    (0#4 = 0#4 ∧ (⟨0b0010#4, 0b0100#4, 0b1000#4, 0b0000#4⟩ : Quad (BitVec 4)) = ⟨0b0010#4, 0b0100#4, 0b1000#4, 0b0000#4⟩) ∧
    (3#4 = 3#4 ∧ (⟨0b1000#4, 0b1000#4, 0b1000#4, 0b0000#4⟩ : Quad (BitVec 4)) = ⟨0b1000#4, 0b1000#4, 0b1000#4, 0b0000#4⟩) := by
  decide

/-- A has no parent, B has one. -/
theorem witness_NodeOutputsFollowTheGraph :
    Acyclic aToB.templates ∧ parents aToB.templates .A = [] ∧ parents aToB.templates .B ≠ [] :=
  ⟨acyclic_aToB, by decide, by decide⟩

theorem witness_PresetStructures :
    (∀ k ∈ Slot.all, (allPresent.templates.get k).present = true) ∧ (∃ t, exec (.applyPreset 0#4) allPresent = .next t) ∧
    (∃ t, exec (.applyPreset 1#4) allPresent = .next t) ∧ (∃ t, exec (.applyPreset 2#4) allPresent = .next t) ∧
    (∃ t, exec (.applyPreset 3#4) allPresent = .next t) :=
  ⟨by decide, ⟨_, rfl⟩, ⟨_, rfl⟩, ⟨_, rfl⟩, ⟨_, rfl⟩⟩

/-- A fade counter at 0 and at FADE_LEN. -/
theorem witness_VoiceStateAfterBlock :
    (voiceAt 0#64 1#32).fade.toNat ≤ (State.resetFor ⟨4, 4, 0xFFFF#16⟩).build.fadeLen.toNat ∧
    ({ voiceAt 0#64 1#32 with fade := 0xFFFF#16 } : Voice).fade.toNat ≤
      (State.resetFor ⟨4, 4, 0xFFFF#16⟩).build.fadeLen.toNat := by decide

/-- Reset has no carrier; with slot A present there is one. -/
theorem witness_VoiceOutputPipeline : carriers State.reset.templates = [] ∧ carriers squareA.templates ≠ [] := by decide

theorem witness_NoiseGeneratorIsExact : noiseStep 5#32 = noiseStep 5#32 ∧ 0x80000000#32 ≠ 0#32 := by decide

/-- Both cases of the seed: 0 replaced by 1, and any other. -/
theorem witness_NoiseSeedFormula :
    4 ≤ 4 ∧ (0x61C88647 + 0x9E3779B9 * ((5 * ((0#64).toNat % 2 ^ 32) + 0 + 1) % 2 ^ 32)) % 2 ^ 32 = 0 ∧
    (0x2545F491 + 0x9E3779B9 * ((5 * ((0#64).toNat % 2 ^ 32) + 4 + 1) % 2 ^ 32)) % 2 ^ 32 = 0x3C5B552E := by decide

/-- The first and the last sample of a block, on both sides of half a turn. -/
theorem witness_WaveformSamples :
    0 < 4 ∧ 3 < 4 ∧ ((0x7FFFFFFF#32).toNat + 0 * (1#32).toNat) % 2 ^ 32 < 0x80000000 ∧
      ¬ ((0x7FFFFFFF#32).toNat + 3 * (1#32).toNat) % 2 ^ 32 < 0x80000000 := by decide

/-- The last sample of a square slot with its envelope at 1.0. -/
theorem witness_SlotOutputsEnabledAndDisabled :
    3 < 4 ∧ ([fOne, fOne, fOne, fOne] : Block)[3]? = some fOne ∧
      (waveBlock .square (phaseBlock 0x80000000#32 0#32 4) 1#32).1[3]? = some fMinusOne := by decide +kernel

/-- Finite operands; and for `RoundsTo`: an exact result at MAXFINITE, and the tie of 1 + 2^-53 between 1.0 (even) and the
value after it, which is odd. -/
theorem witness_AdditionRoundsToNearest :
    fIsFinite fOne = true ∧ fIsFinite fMaxFinite = true ∧ fIsFinite 0x3CA0000000000000#64 = true ∧
    (fInt fMaxFinite + fInt fZero).natAbs ≤ fMag fMaxFinite * 1 ∧ fIsFinite (fAdd fOne 0x3CA0000000000000#64) = true ∧
    fIsFinite 0x3FF0000000000001#64 = true ∧ fInt 0x3FF0000000000001#64 ≠ fInt (fAdd fOne 0x3CA0000000000000#64) ∧
    (fInt (fAdd fOne 0x3CA0000000000000#64) - (fInt fOne + fInt 0x3CA0000000000000#64)).natAbs =
      (fInt 0x3FF0000000000001#64 - (fInt fOne + fInt 0x3CA0000000000000#64)).natAbs := by decide +kernel

/-- Finite operands, the divisor not zero; and for `RoundsTo`: a product and a quotient at MAXFINITE, and the tie of half the
smallest value between +0.0 (even) and that value. -/
theorem witness_MultiplicationAndDivisionRoundToNearest :
    fIsFinite fMaxFinite = true ∧ fIsFinite fOne = true ∧ fIsFinite 1#64 = true ∧ fInt fMinusOne ≠ 0 ∧
    (fInt fMaxFinite * fInt fOne).natAbs ≤ fMag fMaxFinite * 2 ^ 1074 ∧
    ((fInt fMinusOne).sign * fInt fMaxFinite * 2 ^ 1074).natAbs ≤ fMag fMaxFinite * (fInt fMinusOne).natAbs ∧
    fIsFinite (fMul 1#64 0x3FE0000000000000#64) = true ∧ fInt 1#64 ≠ fInt (fMul 1#64 0x3FE0000000000000#64) ∧
    (fInt (fMul 1#64 0x3FE0000000000000#64) * (2 ^ 1074 : Nat) - fInt 1#64 * fInt 0x3FE0000000000000#64).natAbs =
      (fInt 1#64 * (2 ^ 1074 : Nat) - fInt 1#64 * fInt 0x3FE0000000000000#64).natAbs := by decide +kernel

theorem witness_MultiplyingByOneIsExact :
    fIsNaN (fInf true) = false ∧ fIsNaN fNegZero = false ∧ ([fOne, fNegZero, fInf false].all fun x => !fIsNaN x) = true := by
  decide +kernel

theorem witness_SumFilterSamples :
    3 < ([fOne, fOne, fOne, fZero] : Block).length ∧
      ∀ b ∈ [[fOne, fOne, fOne, fOne]], b.length = ([fOne, fOne, fOne, fZero] : Block).length := by decide +kernel

theorem witness_PassFilterRecurrence :
    PassFilter.reset.type = .none ∧ ({ PassFilter.reset with type := .low } : PassFilter).type ≠ .none ∧
      ({ PassFilter.reset with type := .high } : PassFilter).type ≠ .none := by decide

/-- The last sample of each of the three nodes. -/
theorem witness_TremoloFmAndFadeSamples :
    let o : SlotOut := { sample := [fOne, fZero], angle := [fZero, fOne], ampl := [fOne, fZero], ph := 0#32, nz := 1#32 }
    (([fOne, fZero] : Block)[1]? = some fZero ∧ ([fOne, fOne] : Block)[1]? = some fOne) ∧
    (o.ampl[1]? = some fZero ∧ o.angle[1]? = some fOne ∧ ([fOne, fOne] : Block)[1]? = some fOne) ∧ 1#16 ≠ 0#16 := by
  decide +kernel

theorem witness_EnvelopeRecurrence : 0 < 1 ∧ 3 < 4 := by decide

/-- Stages of length 1 (from amplitude 1) are not instantaneous. -/
theorem witness_EnvelopeStagesOfOneBlock :
    1#32 ≠ 0#32 ∧ fDiv Template.reset.atgt (fAdd Template.reset.amp Template.reset.atgt) ≠ fOne ∧
      fDiv Template.reset.drtgt (fAdd Template.reset.amp Template.reset.drtgt) ≠ fOne := by decide +kernel

/-- Stages of length 0; ATTACK instantaneous by length before a DECAY that is not; amplitudes +0.0 and -0.0 with the smallest
and the largest target offset, where the quotient of a stage of length 1 is 1.0. -/
theorem witness_InstantaneousStagesArePassed :
    (Template.reset.att = 0#32 ∧ Template.reset.dec = 0#32 ∧ Template.reset.rel = 0#32) ∧
    (¬ (1#32 = 0#32 ∨ fDiv Template.reset.drtgt (fAdd Template.reset.amp Template.reset.drtgt) = fOne)) ∧
    ([0#64, 0x8000000000000000#64].all fun a => [1#64, fMaxFinite].all fun t => isPositiveFinite t && fDiv t (fAdd a t) == fOne) =
      true := by decide +kernel

/-- The three clauses of EnvelopeMovesForward on the stage reached. -/
theorem witness_EnvelopeMovesForward :
    (envelopeBlock Template.reset 4 .release fOne).est = .idle ∧ (envelopeBlock Template.reset 4 .idle fZero).est = .idle ∧
    (envelopeBlock Template.reset 4 .attack fZero).est = .sustain := by decide +kernel

/-- One voice below MAXV, and a free slot. -/
theorem witness_NoteOnTakesLowestFreeSlot :
    let s := { twoVoices with maxv := 3#8 }
    s.vseq.toNat ≠ 2 ^ 64 - 1 ∧ voiceCount s.voices < s.maxv.toNat ∧ s.maxv.toNat ≤ s.voices.length := by decide

theorem witness_NoteOnEvictsOldestFirst :
    twoVoices.Inv ∧ twoVoices.vseq.toNat ≠ 2 ^ 64 - 1 ∧ twoVoices.maxv.toNat ≤ voiceCount twoVoices.voices := by
  decide +kernel

/-- The last number that runs, and the one that stops. -/
theorem witness_NoteOnStopsOnlyAtVseqEnd :
    ({ State.reset with vseq := 0xFFFFFFFFFFFFFFFF#64 } : State).vseq.toNat = 2 ^ 64 - 1 ∧
    ({ State.reset with vseq := 0xFFFFFFFFFFFFFFFE#64 } : State).Inv ∧
    ({ State.reset with vseq := 0xFFFFFFFFFFFFFFFE#64 } : State).vseq.toNat ≠ 2 ^ 64 - 1 := by decide +kernel

/-- A free slot, a voice at another note, a voice at the note of ARG0. -/
theorem witness_NoteOffReleasesMatchingVoices :
    FreeSlot twoVoices.voices 1 ∧ HoldsVoice twoVoices.voices 2 (voiceAt 1#64 20#32) ∧
    (voiceAt 1#64 20#32).note ≠ twoVoices.arg0 ∧ HoldsVoice twoVoices.voices 0 (voiceAt 0#64 10#32) ∧
    (voiceAt 0#64 10#32).note = twoVoices.arg0 :=
  ⟨⟨_, rfl, rfl⟩, ⟨rfl, rfl⟩, by decide, ⟨rfl, rfl⟩, rfl⟩

/-- A free slot; a voice whose carrier sustains after its block; a released voice, idle after its block (REL = 0). -/
theorem witness_PullCompletes :
    Acyclic twoVoices.templates ∧ FreeSlot twoVoices.voices 1 ∧ HoldsVoice twoVoices.voices 0 (voiceAt 0#64 10#32) ∧
    (∃ c ∈ carriers twoVoices.templates, ((voiceBlock twoVoices (voiceAt 0#64 10#32)).2.osc.get c).est ≠ .idle) ∧
    (∀ c ∈ carriers twoVoices.templates,
      ((voiceBlock twoVoices (releaseVoice (voiceAt 0#64 10#32))).2.osc.get c).est = .idle) :=
  ⟨acyclic_squareA, ⟨_, rfl, rfl⟩, ⟨rfl, rfl⟩, by decide +kernel, by decide +kernel⟩

theorem pull_completes {s : State} (h : cyclic s.templates = false) : ∃ t, exec .pull s = .next t := by
  simp only [exec, execPull, h]
  exact ⟨_, rfl⟩

/-- PULL completes on an empty mixer and on two members in order. -/
theorem witness_PullMixesMembers :
    (∃ t, exec .pull State.reset = .next t) ∧ validVoices State.reset.voices = [] ∧
    (∃ t, exec .pull twoVoices = .next t) ∧
    [voiceAt 0#64 10#32, voiceAt 1#64 20#32].Perm (validVoices twoVoices.voices) ∧
    [voiceAt 0#64 10#32, voiceAt 1#64 20#32].Pairwise (fun a b => a.seq.toNat < b.seq.toNat) ∧
    3 < twoVoices.build.blockLen :=
  ⟨pull_completes (by decide), by decide, pull_completes (by decide), by decide, by decide, by decide⟩

theorem witness_OutputAndMembershipChangeOnlyThere :
    (∃ t, exec .noteOff twoVoices = .next t) ∧ Instr.noteOff ≠ .softReset ∧ Instr.noteOff ≠ .pull ∧ Instr.noteOff ≠ .noteOn :=
  ⟨⟨_, rfl⟩, by decide, by decide, by decide⟩

theorem witness_CommandsKeepOperandsAndBuild :
    (∃ t, exec .setSeed twoVoices = .next t) ∧ Instr.setSeed ≠ .softReset := ⟨⟨_, rfl⟩, by decide⟩

/-- Accepted commands that leave the error registers, with addresses next to the bytes they change, and a rejected one. -/
theorem witness_WindowFrame :
    (∃ t, exec .setMaxv (withArgs 1#32 0#32) = .next t ∧ (withArgs 1#32 0#32).err = t.err ∧
      (withArgs 1#32 0#32).errOvf = t.errOvf ∧ (withArgs 1#32 0#32).errCode = t.errCode ∧
      (withArgs 1#32 0#32).errCmd = t.errCmd) ∧
    ¬ (Instr.setMaxv = .setMaxv ∧ 0x28 ≤ (0x2C#16).toNat ∧ (0x2C#16).toNat < 0x2C) ∧
    ¬ (Instr.setSeed = .setSeed ∧ 0x2C ≤ (0x2B#16).toNat ∧ (0x2B#16).toNat < 0x30) ∧
    ¬ (Instr.pull = .pull ∧ ((0x8020#16).toNat = 0x05 ∨ (0x1C ≤ (0x8020#16).toNat ∧ (0x8020#16).toNat < 0x20) ∨
      (0x8000 ≤ (0x8020#16).toNat ∧ (0x8020#16).toNat < 0x8000 + 8 * State.reset.build.blockLen))) ∧
    (¬ ((0x10#16).toNat = 0x04 ∨ (0x10#16).toNat = 0x08 ∨ (0x0C ≤ (0x10#16).toNat ∧ (0x10#16).toNat < 0x10)) ∧
      ∃ t, exec .setMaxv State.reset = .next t ∧ ∃ c, t = raiseError c (encode .setMaxv) State.reset) :=
  ⟨⟨_, rfl, rfl, rfl, rfl, rfl⟩, by decide, by decide, by decide, by decide, _, rfl, .badValue, rfl⟩

theorem witness_ResetIsLegal : Build.Legal Config.build ∧ Build.Legal ⟨4096, 255, 0xFFFF#16⟩ := by decide

theorem witness_StepKeepsLegal :
    ({ twoVoices with bus := [.write 0x0010#16 4 0x00000041#32] } : State).Inv ∧
      ∃ t, step { twoVoices with bus := [.write 0x0010#16 4 0x00000041#32] } = .next t := ⟨by decide +kernel, _, rfl⟩

/-- A legal state that is served, one whose access is undefined, and one at the end of VSEQ. -/
theorem witness_LegalStatesAreServed :
    twoVoices.Inv ∧ State.Inv { State.reset with bus := [.read 0x0002#16 4] } ∧
    State.Inv { State.reset with vseq := 0xFFFFFFFFFFFFFFFF#64, bus := [.write 0x0010#16 4 0x00000040#32] } :=
  ⟨by decide +kernel, by decide +kernel, by decide +kernel⟩

end Sys2Proof.Tests
end

section
/-! SUPPORT. Commands and the fields that are not theirs to write (10_state.md R29; 00_scope.md R7). -/

namespace Sys2Proof.Machine

/-- `t` has the build, the accesses to come and the answer of `s`. -/
def SameHost (s t : State) : Prop := t.build = s.build ∧ t.bus = s.bus ∧ t.resp = s.resp

/-- `t` has the operand registers of `s`. -/
def SameOperands (s t : State) : Prop := t.arg0 = s.arg0 ∧ t.arg1 = s.arg1

theorem raiseError_sameHost (c : ErrCode) (w : Word) (s : State) : SameHost s (raiseError c w s) :=
  ⟨raiseError_build c w s, raiseError_bus c w s, raiseError_resp c w s⟩

theorem raiseError_sameOperands (c : ErrCode) (w : Word) (s : State) : SameOperands s (raiseError c w s) :=
  ⟨raiseError_arg0 c w s, raiseError_arg1 c w s⟩

theorem Accepted.sameHost {i : Instr} {s t : State} (h : Accepted i s t) : SameHost s t := by
  cases h <;> exact ⟨rfl, rfl, rfl⟩

/-- SOFT_RESET is the one accepted command that writes an operand register (R297). -/
theorem Accepted.sameOperands {i : Instr} {s t : State} (h : Accepted i s t) (hi : i ≠ .softReset) :
    SameOperands s t := by
  cases h
  case softReset => exact absurd rfl hi
  all_goals exact ⟨rfl, rfl⟩

/-- Settles O56: the error procedure and every accepted effect keep these fields. -/
theorem commandsKeepOperandsAndBuild : Obligations.CommandsKeepOperandsAndBuild := by
  intro i s t h
  obtain ⟨⟨hbuild, hbus, hresp⟩, hargs⟩ : SameHost s t ∧ (i ≠ .softReset → SameOperands s t) := by
    rcases exec_next h with ⟨c, rfl⟩ | ha
    · exact ⟨raiseError_sameHost c _ s, fun _ => raiseError_sameOperands c _ s⟩
    · exact ⟨ha.sameHost, ha.sameOperands⟩
  exact ⟨hbuild, hbus, hresp, hargs⟩

end Sys2Proof.Machine
end

section
/-! SUPPORT. Binary64 rounding (00_scope.md R10): the encoding `roundMag` gives is that of a nearest finite value, ties to
even. -/

namespace Sys2Proof.Machine

/-! ### Fields of an encoding -/

theorem fExpField_eq (x : F64) : fExpField x = fMagField x / 2 ^ 52 := by
  unfold fExpField fMagField; omega

theorem fFracField_eq (x : F64) : fFracField x = fMagField x % 2 ^ 52 := by
  unfold fFracField fMagField; omega

theorem fSign_eq (x : F64) : fSign x = decide (2 ^ 63 ≤ x.toNat) := by
  have hx := x.isLt
  rw [fSign, ← BitVec.msb_eq_getLsbD_last, BitVec.msb_eq_decide]

theorem fPack_toNat (neg : Bool) {e : Nat} (he : e < 2 ^ 63) :
    (fPack neg e).toNat = (if neg then 2 ^ 63 else 0) + e := by
  rw [fPack, BitVec.toNat_ofNat, Nat.mod_eq_of_lt]
  split <;> omega

theorem fSign_fPack (neg : Bool) {e : Nat} (he : e < 2 ^ 63) : fSign (fPack neg e) = neg := by
  rw [fSign_eq, fPack_toNat neg he]
  cases neg
  · exact decide_eq_false (by simpa using he)
  · exact decide_eq_true (Nat.le_add_right _ _)

theorem fMagField_fPack (neg : Bool) {e : Nat} (he : e < 2 ^ 63) : fMagField (fPack neg e) = e := by
  rw [fMagField, fPack_toNat neg he]
  cases neg <;> simp <;> omega

theorem fPack_getLsbD_zero (neg : Bool) {e : Nat} (he : e < 2 ^ 63) :
    (fPack neg e).getLsbD 0 = decide (e % 2 = 1) := by
  rw [BitVec.getLsbD, fPack_toNat neg he, Nat.testBit_zero, decide_eq_decide]
  cases neg <;> simp; omega

theorem fIsFinite_iff (x : F64) : fIsFinite x = true ↔ fMagField x < 2047 * 2 ^ 52 := by
  have : fMagField x < 2 ^ 63 := Nat.mod_lt _ (by decide)
  rw [fIsFinite, bne_iff_ne, fExpField_eq]
  omega

theorem fMagField_fNeg (x : F64) : fMagField (fNeg x) = fMagField x := by
  simp only [fMagField, fNeg, BitVec.toNat_xor, Nat.xor_mod_two_pow]
  simp

theorem fSign_fNeg (x : F64) : fSign (fNeg x) = !fSign x := by
  simp [fSign, fNeg]

/-! ### Values, in units of 2^-1074 -/

/-- A sign and a magnitude as an integer. -/
def signed (neg : Bool) (n : Nat) : Int := if neg then -(n : Int) else n

theorem fInt_eq_signed (x : F64) : fInt x = signed (fSign x) (fMag x) := rfl

theorem signed_natAbs (v : Int) : signed (decide (v < 0)) v.natAbs = v := by
  rcases lt_or_ge v 0 with hneg | hpos
  · simp [signed, hneg, abs_of_neg hneg]
  · simp [signed, not_lt.2 hpos, abs_of_nonneg hpos]

@[simp] theorem natAbs_signed (neg : Bool) (n : Nat) : (signed neg n).natAbs = n := by
  cases neg <;> simp [signed]

theorem signed_mul (a b : Bool) (m n : Nat) : signed a m * signed b n = signed (a != b) (m * n) := by
  cases a <;> cases b <;> simp [signed]

theorem signed_one_ne_zero (neg : Bool) : signed neg 1 ≠ 0 := by cases neg <;> decide

theorem signed_mul_natCast (a : Bool) (m n : Nat) : signed a (m * n) = signed a m * n := by
  cases a <;> simp [signed]

theorem sign_signed_mul (a b : Bool) (m : Nat) {n : Nat} (hn : n ≠ 0) :
    (signed b n).sign * signed a m = signed (a != b) m := by
  have hs : (n : Int).sign = 1 := Int.sign_natCast_of_ne_zero hn
  cases a <;> cases b <;> simp [signed, hs]

theorem fMag_fNeg (x : F64) : fMag (fNeg x) = fMag x := by
  simp only [fMag, fExpField_eq, fFracField_eq, fMagField_fNeg]

theorem fInt_fNeg (x : F64) : fInt (fNeg x) = -fInt x := by
  rw [fInt_eq_signed, fInt_eq_signed, fSign_fNeg, fMag_fNeg]
  cases fSign x <;> simp [signed]

theorem fIsFinite_fNeg (x : F64) : fIsFinite (fNeg x) = fIsFinite x := by
  rw [Bool.eq_iff_iff, fIsFinite_iff, fIsFinite_iff, fMagField_fNeg]

/-- `m` is a significand under the exponent `sh`: below 2^52 only for subnormal values; 2^53 is a carry out of rounding. -/
def IsSignificand (sh m : Nat) : Prop := m ≤ 2 ^ 53 ∧ (sh = 0 ∨ 2 ^ 52 ≤ m)

/-- The encoding `sh * 2^52 + m` stands for `m * 2^sh`, a significand of 2^53 carrying into the exponent field. -/
theorem fMag_fPack (neg : Bool) {sh m : Nat} (hm : IsSignificand sh m) (he : sh * 2 ^ 52 + m < 2 ^ 63) :
    fMag (fPack neg (sh * 2 ^ 52 + m)) = m * 2 ^ sh := by
  obtain ⟨hle, hnorm⟩ := hm
  rw [fMag, fExpField_eq, fFracField_eq, fMagField_fPack neg he]
  rcases Nat.lt_or_ge m (2 ^ 52) with hsub | hge
  · have hsh : sh = 0 := by omega
    subst hsh
    rw [if_pos (by omega), Nat.pow_zero]
    omega
  rcases Nat.lt_or_ge m (2 ^ 53) with hlt | hcarry
  · rw [show (sh * 2 ^ 52 + m) / 2 ^ 52 = sh + 1 by omega, show (sh * 2 ^ 52 + m) % 2 ^ 52 = m - 2 ^ 52 by omega,
      if_neg (by omega), Nat.add_sub_cancel, Nat.add_sub_cancel' hge]
  · obtain rfl : m = 2 ^ 53 := by omega
    rw [show (sh * 2 ^ 52 + 2 ^ 53) / 2 ^ 52 = sh + 2 by omega, show (sh * 2 ^ 52 + 2 ^ 53) % 2 ^ 52 = 0 by omega,
      if_neg (by omega), show sh + 2 - 1 = sh + 1 by omega, Nat.pow_succ 2 sh]
    omega

/-- No encoding has a value strictly between two consecutive multiples of `2^sh` from `2^(52 + sh)` on. -/
theorem fMag_gap (z : F64) {sh m : Nat} (hm : sh = 0 ∨ 2 ^ 52 ≤ m) :
    fMag z ≤ m * 2 ^ sh ∨ (m + 1) * 2 ^ sh ≤ fMag z := by
  rcases hm with rfl | hm
  · rw [Nat.pow_zero]; omega
  refine (Nat.lt_or_ge (m * 2 ^ sh) (fMag z)).symm.imp id fun hlt => ?_
  have hdvd : 2 ^ sh ∣ fMag z := by
    have hbig : 2 ^ 52 * 2 ^ sh < fMag z := (Nat.mul_le_mul_right _ hm).trans_lt hlt
    have hpos : 0 < 2 ^ sh := Nat.two_pow_pos sh
    have hfrac : fFracField z < 2 ^ 52 := Nat.mod_lt _ (by decide)
    rw [fMag] at hbig ⊢
    split at hbig
    · omega
    · rename_i hexp
      rw [if_neg hexp]
      have hexp : sh < fExpField z := by
        have hlt : 2 ^ (52 + sh) < 2 ^ (53 + (fExpField z - 1)) := by
          rw [Nat.pow_add, Nat.pow_add]
          exact hbig.trans_le (Nat.mul_le_mul_right _ (by omega))
        have := (Nat.pow_lt_pow_iff_right (by decide)).1 hlt
        omega
      exact (Nat.pow_dvd_pow 2 (by omega)).trans (Nat.dvd_mul_left _ _)
  obtain ⟨c, hc⟩ := hdvd
  rw [hc, Nat.mul_comm _ c] at hlt ⊢
  exact Nat.mul_le_mul_right _ (Nat.lt_of_mul_lt_mul_right hlt)

/-- The same of the signed values. -/
theorem fInt_gap (neg : Bool) (z : F64) {sh m : Nat} (hm : sh = 0 ∨ 2 ^ 52 ≤ m) :
    signed neg 1 * fInt z ≤ ((m * 2 ^ sh : Nat) : Int) ∨ (((m + 1) * 2 ^ sh : Nat) : Int) ≤ signed neg 1 * fInt z := by
  rw [fInt_eq_signed, signed_mul, Nat.one_mul]
  have := fMag_gap z hm
  cases neg != fSign z <;> simp only [signed] <;> omega

/-! ### Rounding a quotient -/

/-- The three ways to round a quotient: down, up, and from a tie to the even neighbour. -/
theorem divRoundEven_cases (n d : Nat) :
    (2 * (n % d) < d ∧ divRoundEven n d = n / d) ∨ (d < 2 * (n % d) ∧ divRoundEven n d = n / d + 1) ∨
      (2 * (n % d) = d ∧ divRoundEven n d = n / d + n / d % 2) := by
  simp only [divRoundEven]
  split
  · simp [*]
  · split
    · simp [*]
    · exact .inr (.inr ⟨by omega, rfl⟩)

theorem divRoundEven_bounds (n d : Nat) : n / d ≤ divRoundEven n d ∧ divRoundEven n d ≤ n / d + 1 := by
  have := divRoundEven_cases n d
  omega

theorem divRoundEven_le {n d c : Nat} (hd : 0 < d) (h : n ≤ c * d) : divRoundEven n d ≤ c := by
  have hq : n / d ≤ c := Nat.div_le_of_le_mul (by rwa [Nat.mul_comm])
  rcases Nat.lt_or_ge (n / d) c with hlt | hge
  · exact (divRoundEven_bounds n d).2.trans hlt
  · obtain rfl : c = n / d := by omega
    have hr : n % d = 0 := by have := Nat.div_add_mod' n d; omega
    simp [divRoundEven, hr, hd]

/-- The rounded quotient is nearest among all `w` that do not lie strictly between the two whole neighbours of the quotient,
and even where such a `w` is as near. -/
theorem divRoundEven_nearest {n d : Nat} (hd : 0 < d) {w : Int}
    (hw : w ≤ ((n / d * d : Nat) : Int) ∨ (((n / d + 1) * d : Nat) : Int) ≤ w) :
    (((divRoundEven n d * d : Nat) : Int) - n).natAbs ≤ (w - n).natAbs ∧
      ((((divRoundEven n d * d : Nat) : Int) - n).natAbs = (w - n).natAbs →
        w ≠ ((divRoundEven n d * d : Nat) : Int) → divRoundEven n d % 2 = 0) := by
  have hn := Nat.div_add_mod' n d
  have hr := Nat.mod_lt n hd
  have hup : (n / d + 1) * d = n / d * d + d := Nat.succ_mul _ _
  rcases divRoundEven_cases n d with ⟨hlt, hk⟩ | ⟨hgt, hk⟩ | ⟨htie, hk⟩
  · rw [hk]; omega
  · rw [hk]; omega
  · rcases Nat.mod_two_eq_zero_or_one (n / d) with heven | hodd
    · rw [hk, heven, Nat.add_zero]; omega
    · rw [hk, hodd]; omega

/-- The same for a quotient by `den * s`, of values that are measured in steps of `s`. -/
theorem divRoundEven_mul_nearest {n den s : Nat} (hden : 0 < den) (hs : 0 < s) {w : Int}
    (hw : w ≤ ((n / (den * s) * s : Nat) : Int) ∨ (((n / (den * s) + 1) * s : Nat) : Int) ≤ w) :
    (((divRoundEven n (den * s) * s : Nat) : Int) * den - n).natAbs ≤ (w * den - n).natAbs ∧
      ((((divRoundEven n (den * s) * s : Nat) : Int) * den - n).natAbs = (w * den - n).natAbs →
        w ≠ ((divRoundEven n (den * s) * s : Nat) : Int) → divRoundEven n (den * s) % 2 = 0) := by
  have hden' : (0 : Int) < den := Int.natCast_pos.2 hden
  have scale (a : Nat) : ((a * (den * s) : Nat) : Int) = ((a * s : Nat) : Int) * den := by push_cast; ring
  have hnear := divRoundEven_nearest (n := n) (Nat.mul_pos hden hs) (w := w * den)
  simp only [scale, mul_le_mul_iff_left₀ hden', ne_eq, mul_left_inj' hden'.ne'] at hnear
  exact hnear hw

/-! ### Rounding a magnitude -/

/-- The quotient that `roundMag` rounds is a significand, and no carry has happened yet. -/
theorem roundShift_quotient (n den : Nat) :
    n / (den * 2 ^ roundShift (n / den)) < 2 ^ 53 ∧
      (roundShift (n / den) = 0 ∨ 2 ^ 52 ≤ n / (den * 2 ^ roundShift (n / den))) := by
  rw [← Nat.div_div_eq_div_mul]
  generalize n / den = q
  have hpos : 0 < 2 ^ roundShift q := Nat.two_pow_pos _
  rw [Nat.div_lt_iff_lt_mul hpos, Nat.le_div_iff_mul_le hpos, roundShift]
  split
  · simp_all
  · rename_i hq
    have hne : q ≠ 0 := by omega
    have hlog : 53 ≤ q.log2 := (Nat.le_log2 hne).2 (by omega)
    rw [← Nat.pow_add, ← Nat.pow_add, show 53 + (q.log2 - 52) = q.log2 + 1 by omega, Nat.add_sub_cancel' (by omega)]
    exact ⟨Nat.lt_log2_self, .inr (Nat.log2_self_le hne)⟩

theorem fMag_fMaxFinite : fMag fMaxFinite = (2 ^ 53 - 1) * 2 ^ 2045 := by decide +kernel

theorem roundShift_le {q : Nat} {b : Nat} (h : q < 2 ^ 53 * 2 ^ b) : roundShift q ≤ b := by
  unfold roundShift
  split
  · exact Nat.zero_le b
  · have hlog : q.log2 < 53 + b := Nat.log2_lt (by omega) |>.2 (by rwa [Nat.pow_add])
    omega

/-- A magnitude within MAXFINITE does not round to infinity. -/
theorem roundMag_lt_of_le_maxFinite {n den : Nat} (hden : 0 < den) (h : n ≤ fMag fMaxFinite * den) :
    roundMag n den < 2047 * 2 ^ 52 := by
  rw [fMag_fMaxFinite] at h
  have hsh : roundShift (n / den) ≤ 2045 := by
    refine roundShift_le ((Nat.div_le_of_le_mul (h.trans_eq (Nat.mul_comm _ _))).trans_lt ?_)
    exact Nat.mul_lt_mul_of_pos_right (by decide) (pow_pos two_pos _)
  have hk := divRoundEven_bounds n (den * 2 ^ roundShift (n / den))
  have hq := (roundShift_quotient n den).1
  rw [roundMag, min_lt_iff]
  left
  rcases Nat.lt_or_eq_of_le hsh with hlt | heq
  · omega
  · have : divRoundEven n (den * 2 ^ roundShift (n / den)) ≤ 2 ^ 53 - 1 := by
      refine divRoundEven_le (Nat.mul_pos hden (Nat.two_pow_pos _)) ?_
      rwa [heq, Nat.mul_comm den, ← Nat.mul_assoc]
    omega

/-- The encoding of a rounded magnitude that is not infinity. -/
theorem roundMag_eq {n den : Nat} (h : roundMag n den < 2047 * 2 ^ 52) :
    roundMag n den = roundShift (n / den) * 2 ^ 52 + divRoundEven n (den * 2 ^ roundShift (n / den)) := by
  simp only [roundMag] at h ⊢
  omega

/-- The distance of `v` from a signed exact value, measured on the side of that value. -/
theorem natAbs_sub_signed (neg : Bool) (v : Int) (n den : Nat) :
    (v * den - signed neg n).natAbs = (signed neg 1 * v * den - n).natAbs := by
  cases neg
  · simp [signed]
  · rw [← Int.natAbs_neg]
    congr 1
    simp only [signed, if_true, Nat.cast_one]
    ring

/-- The rounded magnitude with its sign is the exact value rounded to nearest, ties to even. -/
theorem roundsTo_fPack_roundMag (neg : Bool) (n : Nat) {den : Nat} (hden : 0 < den) :
    RoundsTo (signed neg n) den (fPack neg (roundMag n den)) := by
  have hle : roundMag n den < 2 ^ 63 := (Nat.min_le_right _ _).trans_lt (by decide)
  rw [RoundsTo, fIsFinite_iff, fMagField_fPack neg hle, natAbs_signed]
  refine ⟨roundMag_lt_of_le_maxFinite hden, fun hfin z _ => ?_⟩
  obtain ⟨hlt, hnorm⟩ := roundShift_quotient n den
  have he := roundMag_eq hfin
  rw [fPack_getLsbD_zero neg hle]
  rw [he] at hle ⊢
  generalize roundShift (n / den) = sh at *
  have hk := divRoundEven_bounds n (den * 2 ^ sh)
  have hr : signed neg 1 * fInt (fPack neg (sh * 2 ^ 52 + divRoundEven n (den * 2 ^ sh))) =
      ((divRoundEven n (den * 2 ^ sh) * 2 ^ sh : Nat) : Int) := by
    rw [fInt_eq_signed, fSign_fPack neg hle, fMag_fPack neg ⟨by omega, hnorm.imp_right (·.trans hk.1)⟩ hle, signed_mul]
    simp [signed]
  obtain ⟨hnear, heven⟩ := divRoundEven_mul_nearest hden (Nat.two_pow_pos sh) (fInt_gap neg z hnorm)
  rw [natAbs_sub_signed, natAbs_sub_signed neg (fInt z), hr]
  refine ⟨hnear, fun heq hne => ?_⟩
  have := heven heq fun h => hne (mul_left_cancel₀ (signed_one_ne_zero neg) (h.trans hr.symm))
  simp only [decide_eq_false_iff_not]
  omega

/-- An exact value that is finite is its own rounding. -/
theorem roundsTo_of_exact {r : F64} (hfin : fIsFinite r = true) : RoundsTo (fInt r) 1 r := by
  refine ⟨fun _ => hfin, fun _ z _ => ⟨by simp, fun heq hne => ?_⟩⟩
  exact absurd heq (by simp only [Nat.cast_one, Int.mul_one]; omega)

/-! ### The operations on finite operands -/

theorem fIsNaN_of_finite {x : F64} (hx : fIsFinite x = true) : fIsNaN x = false := by
  simp_all [fIsFinite, fIsNaN]

theorem fIsInf_of_finite {x : F64} (hx : fIsFinite x = true) : fIsInf x = false := by
  simp_all [fIsFinite, fIsInf]

theorem fIsZero_of_fInt_ne_zero {x : F64} (hx : fInt x ≠ 0) : fIsZero x = false := by
  rw [fIsZero, beq_eq_false_iff_ne]
  intro h
  exact hx (by simp [fInt, fMag, fExpField_eq, fFracField_eq, h])

theorem addCore_of_finite (op : ArithOp) {x y : F64} (hx : fIsFinite x = true) (hy : fIsFinite y = true) :
    addCore op x y = roundSum x y := by
  simp [addCore, fIsInf_of_finite hx, fIsInf_of_finite hy]

theorem fAdd_of_finite {x y : F64} (hx : fIsFinite x = true) (hy : fIsFinite y = true) :
    fAdd x y = roundSum x y := by
  simp [fAdd, fIsNaN_of_finite hx, fIsNaN_of_finite hy, addCore_of_finite .add hx hy]

theorem fSub_of_finite {x y : F64} (hx : fIsFinite x = true) (hy : fIsFinite y = true) :
    fSub x y = roundSum x (fNeg y) := by
  simp [fSub, fIsNaN_of_finite hx, fIsNaN_of_finite hy, addCore_of_finite .sub hx ((fIsFinite_fNeg y).trans hy)]

theorem fMul_of_finite {x y : F64} (hx : fIsFinite x = true) (hy : fIsFinite y = true) :
    fMul x y = fPack (fSign x != fSign y) (roundMag (fMag x * fMag y) (2 ^ 1074)) := by
  simp only [fMul, fIsNaN_of_finite hx, fIsNaN_of_finite hy, fIsInf_of_finite hx, fIsInf_of_finite hy, Bool.or_self,
    Bool.false_eq_true, if_false]

theorem fDiv_of_finite {x y : F64} (hx : fIsFinite x = true) (hy : fIsFinite y = true) (hy0 : fInt y ≠ 0) :
    fDiv x y = fPack (fSign x != fSign y) (roundMag (fMag x * 2 ^ 1074) (fMag y)) := by
  simp only [fDiv, fIsNaN_of_finite hx, fIsNaN_of_finite hy, fIsInf_of_finite hx, fIsInf_of_finite hy,
    fIsZero_of_fInt_ne_zero hy0, Bool.or_self, Bool.false_eq_true, if_false]

theorem roundsTo_roundSum (x y : F64) : RoundsTo (fInt x + fInt y) 1 (roundSum x y) := by
  simp only [roundSum]
  split
  · rename_i hzero
    rw [hzero]
    split
    · exact roundsTo_of_exact (r := fNegZero) (by decide)
    · exact roundsTo_of_exact (r := fZero) (by decide)
  · have := roundsTo_fPack_roundMag (decide (fInt x + fInt y < 0)) (fInt x + fInt y).natAbs Nat.one_pos
    rwa [signed_natAbs] at this

/-- Settles O39: a difference is the sum with the negated operand, and `f64(u)` rounds the whole number `u * 2^1074`. -/
theorem additionRoundsToNearest : Obligations.AdditionRoundsToNearest := by
  refine ⟨fun x y hx hy => ⟨?_, ?_⟩, fun u => ?_⟩
  · rw [fAdd_of_finite hx hy]
    exact roundsTo_roundSum x y
  · rw [fSub_of_finite hx hy, Int.sub_eq_add_neg, ← fInt_fNeg]
    exact roundsTo_roundSum x (fNeg y)
  · have := roundsTo_fPack_roundMag false (u * 2 ^ 1074) Nat.one_pos
    rwa [signed, if_neg Bool.false_ne_true, Nat.cast_mul, Nat.cast_pow] at this

/-- Settles O40: signs and magnitudes multiply and divide apart, and the magnitude is rounded once. -/
theorem multiplicationAndDivisionRoundToNearest : Obligations.MultiplicationAndDivisionRoundToNearest := by
  refine fun x y hx hy => ⟨?_, fun hy0 => ?_⟩
  · rw [fMul_of_finite hx hy, fInt_eq_signed, fInt_eq_signed, signed_mul]
    exact roundsTo_fPack_roundMag _ _ (pow_pos two_pos _)
  · rw [fDiv_of_finite hx hy hy0]
    rw [fInt_eq_signed y] at hy0 ⊢
    have hy0 : fMag y ≠ 0 := fun h => hy0 (by cases fSign y <;> simp [signed, h])
    rw [fInt_eq_signed x, sign_signed_mul _ _ _ hy0, natAbs_signed]
    have := roundsTo_fPack_roundMag (fSign x != fSign y) (fMag x * 2 ^ 1074) (Nat.pos_of_ne_zero hy0)
    rwa [signed_mul_natCast, Nat.cast_pow] at this

end Sys2Proof.Machine
end

section
/-! SUPPORT. The reset state is legal (10_state.md R45, R53; 70_reset_and_hazards.md R298). -/

namespace Sys2Proof.Machine

theorem Template.reset_ok : TemplateOk Template.reset := by decide

theorem Voice.reset_osc_get (k : Slot) : Voice.reset.osc.get k = ⟨0#32, .attack, fZero, 0#32⟩ := Quad.get_ofFn _ k

@[simp] theorem validVoices_replicate_reset (n : Nat) : validVoices (List.replicate n Voice.reset) = [] := by
  simp [validVoices]

theorem State.resetFor_sizesOk {b : Build} (hb : b.Legal) : (State.resetFor b).SizesOk := by
  have hmaxv : (BitVec.ofNat 8 b.vmax).toNat = b.vmax := Nat.mod_eq_of_lt (by omega)
  refine ⟨hb, List.length_replicate, List.length_replicate, ?_⟩
  simp only [State.resetFor, hmaxv]
  omega

theorem State.resetFor_configOk (b : Build) : (State.resetFor b).ConfigOk := by
  refine ⟨fun k _ => ?_, (by decide : cyclic (Quad.ofFn fun _ => Template.reset) = false), ?_, ?_⟩
  · simpa only [State.resetFor, Quad.get_ofFn] using Template.reset_ok
  · exact (by decide : inUnitRange Tremolo.reset.amp = true)
  · exact (by decide : cutoffLegal PassFilter.reset.cutoff = true)

theorem State.resetFor_voicesOk (b : Build) : (State.resetFor b).VoicesOk := by
  simp [State.VoicesOk, State.resetFor]

theorem State.resetFor_inv {b : Build} (hb : b.Legal) : (State.resetFor b).Inv :=
  ⟨State.resetFor_sizesOk hb, ⟨fun _ => ⟨rfl, rfl, rfl⟩, nofun⟩, State.resetFor_configOk b,
    State.resetFor_voicesOk b⟩

/-- Settles O58: no reset slot is valid, so the voice table is legal whatever its fields. -/
theorem resetIsLegal : Obligations.ResetIsLegal := by
  intro b hb
  refine ⟨State.resetFor_inv hb, List.length_replicate, fun v hv => ?_⟩
  obtain rfl : v = Voice.reset := List.eq_of_mem_replicate hv
  exact ⟨rfl, rfl, rfl, Voice.reset_osc_get, rfl, rfl, rfl, rfl⟩

end Sys2Proof.Machine
end

section
/-! SUPPORT. What one bus event, one command word and one step can lead to, said once (20_memory.md R61 to R71). -/

namespace Sys2Proof.Machine

theorem accessDefined_word {a : Addr} (ha : a.toNat % 4 = 0) : accessDefined a 4 = true := by
  simp [accessDefined, ha]

/-- A command word raises an error, its own or its command's, or has its command's accepted effect. -/
theorem runCommand_next {w : Word} {s t : State} (h : runCommand w s = .next t) :
    (∃ c w', t = raiseError c w' s) ∨ ∃ i, decode w = .ok i ∧ Accepted i s t := by
  simp only [runCommand] at h
  split at h
  · rename_i i hi
    exact (exec_next h).imp (fun ⟨c, hc⟩ => ⟨c, _, hc⟩) fun ha => ⟨i, hi, ha⟩
  · cases h
    exact .inl ⟨_, w, rfl⟩

/-- The four kinds of event that are served: a read, a register write, a command, a reset. -/
theorem busEvent_next {e : BusEvent} {s t : State} (h : busEvent e s = .next t) :
    (∃ a, t = { s with resp := .readData (readWord s a) }) ∨
      (∃ a v, t = { writeRegister s a v with resp := .writeDone }) ∨
      (∃ w, runCommand w { s with resp := .writeDone } = .next t) ∨ t = resetInput s := by
  cases e with
  | read a size =>
    simp only [busEvent, hostRead] at h
    split at h
    · cases h; exact .inl ⟨a, rfl⟩
    · cases h
  | write a size v =>
    simp only [busEvent, hostWrite] at h
    split at h
    · split at h
      · exact .inr (.inr (.inl ⟨v, h⟩))
      · cases h; exact .inr (.inl ⟨a, v, rfl⟩)
    · cases h
  | rst => cases h; exact .inr (.inr (.inr rfl))

/-- A step serves the first access to come; with none it changes nothing. -/
theorem step_of_bus {s : State} {e : BusEvent} {rest : List BusEvent} (h : s.bus = e :: rest) :
    step s = busEvent e { s with bus := rest } := by
  simp only [step, serveNext, h]

theorem step_of_bus_nil {s : State} (h : s.bus = []) : step s = .next s := by
  simp only [step, serveNext, h]

theorem busEvent_read {a : Addr} (ha : a.toNat % 4 = 0) (s : State) :
    busEvent (.read a 4) s = .next { s with resp := .readData (readWord s a) } :=
  if_pos (accessDefined_word ha)

theorem busEvent_write_cmd (w : Word) (s : State) :
    busEvent (.write cmdAddr 4 w) s = runCommand w { s with resp := .writeDone } := rfl

theorem busEvent_write {a : Addr} (ha : a.toNat % 4 = 0) (hcmd : a ≠ cmdAddr) (v : Word) (s : State) :
    busEvent (.write a 4 v) s = .next { writeRegister s a v with resp := .writeDone } :=
  (if_pos (accessDefined_word ha)).trans (if_neg hcmd)

theorem runCommand_of_decode {w : Word} {i : Instr} (h : decode w = .ok i) (s : State) : runCommand w s = exec i s := by
  simp only [runCommand, h]

/-- Settles O7: the event is a defined write to CMD, and CMD runs what the word decodes to. -/
theorem stepRunsDecodedCommand : Obligations.StepRunsDecodedCommand := by
  intro s w i rest hbus hw
  rw [step_of_bus hbus, ← runCommand_of_decode hw]
  exact busEvent_write_cmd w _

/-- Settles O9: an aligned word access is defined, and a write that is not to CMD goes to `writeRegister`. -/
theorem readsAndRegisterWrites : Obligations.ReadsAndRegisterWrites := by
  refine fun s a v rest ha => ⟨fun hbus => ?_, fun hbus hcmd => ?_⟩
  · exact (step_of_bus hbus).trans (busEvent_read ha _)
  · rw [step_of_bus hbus, busEvent_write ha hcmd, writeRegister]
    split_ifs <;> rfl

end Sys2Proof.Machine
end

section
/-! SUPPORT. Every block of the datapath has the length of its build (00_scope.md R12; 44_voice_mixer.md R231). -/

namespace Sys2Proof.Machine

theorem stageBlock_length (t : Template) (n : Nat) (p : EnvPoint) : (stageBlock t n p).block.length = n := by
  obtain ⟨est, env⟩ := p
  cases est with
  | attack => simp only [stageBlock, attackBlock]; split <;> exact rampBlock_length ..
  | decay => simp only [stageBlock, decayBlock]; split <;> exact rampBlock_length ..
  | sustain => exact List.length_replicate
  | release => simp only [stageBlock, releaseBlock]; split <;> exact rampBlock_length ..
  | idle => exact List.length_replicate

@[simp] theorem envelopeBlock_length (t : Template) (n : Nat) (est : Stage) (env : F64) :
    (envelopeBlock t n est env).block.length = n := stageBlock_length ..

/-- The three blocks of a slot are `n` samples long. -/
def SlotOut.HasLength (n : Nat) (o : SlotOut) : Prop := o.sample.length = n ∧ o.angle.length = n ∧ o.ampl.length = n

theorem slotOscillator_hasLength (t : Template) (note : Word) (o : OscState) {e : Block} {n : Nat} (he : e.length = n) :
    (slotOscillator t note o e n).HasLength n := by
  refine ⟨?_, by simp [slotOscillator], ?_⟩
  all_goals
    simp only [slotOscillator]
    split <;> simp [he]

theorem voiceOscillators_hasLength (s : State) (v : Voice) (k : Slot) :
    ((voiceOscillators s v (voiceEnvelopes s v)).get k).HasLength s.build.blockLen := by
  rw [voiceOscillators, Quad.get_ofFn]
  exact slotOscillator_hasLength _ _ _ (by simp [voiceEnvelopes])

theorem foldl_zipWith_length {n : Nat} (f : F64 → F64 → F64) {xs : List Block} (hxs : ∀ b ∈ xs, b.length = n) {x : Block}
    (hx : x.length = n) : (xs.foldl (List.zipWith f) x).length = n := by
  induction xs generalizing x with
  | nil => exact hx
  | cons y ys ih =>
    obtain ⟨hy, hys⟩ := List.forall_mem_cons.1 hxs
    exact ih hys (by simp [hx, hy])

theorem sumFilter_length {n : Nat} {bs : List Block} (hne : bs ≠ []) (h : ∀ b ∈ bs, b.length = n) :
    (sumFilter bs).length = n := by
  obtain ⟨x, xs, rfl⟩ := List.exists_cons_of_ne_nil hne
  obtain ⟨hx, hxs⟩ := List.forall_mem_cons.1 h
  rw [sumFilter, List.length_map, foldl_zipWith_length fAdd hxs hx]

theorem modulator_length {n : Nat} {bs : List Block} (hne : bs ≠ []) (h : ∀ b ∈ bs, b.length = n) :
    (modulator bs).length = n := by
  unfold modulator
  split
  · exact h _ (List.mem_singleton_self _)
  · exact sumFilter_length hne h

theorem fmBlock_length {n : Nat} {o : SlotOut} (ho : o.HasLength n) {m : Block} (hm : m.length = n) :
    (fmBlock o m).length = n := by
  obtain ⟨-, hangle, hampl⟩ := ho
  simp [fmBlock, hangle, hampl, hm]

theorem nodeOutput_length {n : Nat} (ts : Quad Template) {outs : Quad SlotOut} (h : ∀ k, (outs.get k).HasLength n)
    (depth : Nat) (k : Slot) : (nodeOutput ts outs depth k).length = n := by
  induction depth generalizing k with
  | zero => exact (h k).1
  | succ depth ih =>
    simp only [nodeOutput]
    split
    · exact (h k).1
    · exact fmBlock_length (h k) (modulator_length (by simp) (List.forall_mem_map.2 fun p _ => ih p))

theorem routedOutput_length {n : Nat} (ts : Quad Template) {outs : Quad SlotOut} (h : ∀ k, (outs.get k).HasLength n) :
    (routedOutput ts outs n).length = n := by
  simp only [routedOutput]
  split
  · exact List.length_replicate
  · exact sumFilter_length (by simp) (List.forall_mem_map.2 fun k _ => nodeOutput_length ts h 4 k)

theorem voiceBlock_length (s : State) (v : Voice) : (voiceBlock s v).1.length = s.build.blockLen := by
  have hvr := routedOutput_length s.templates (voiceOscillators_hasLength s v)
  simp only [voiceBlock, fadeNode_length, passNode_length]
  rw [tremoloNode_length _ _ _ (by simp [hvr]), hvr]

theorem mixBlocks_length {n : Nat} {bs : List Block} (h : ∀ b ∈ bs, b.length = n) : (mixBlocks n bs).length = n := by
  cases bs with
  | nil => exact List.length_replicate
  | cons b bs => exact sumFilter_length (List.cons_ne_nil b bs) h

theorem mem_sortMembers {r : Block × Voice} {rs : List (Block × Voice)} : r ∈ sortMembers rs ↔ r ∈ rs :=
  List.mem_insertionSort _

theorem pulledOut_length (s : State) : (pulledOut s).length = s.build.blockLen := by
  refine mixBlocks_length (List.forall_mem_map.2 fun r hr => ?_)
  obtain ⟨v, -, rfl⟩ := List.mem_map.1 (mem_sortMembers.1 hr)
  exact voiceBlock_length s v

end Sys2Proof.Machine
end

section
/-! SUPPORT. Noise generators (40_oscillators.md R117, R118): a step is one to one and keeps 0 and only 0 at 0. -/

namespace Sys2Proof.Machine

/-- A word equal to its own shift is 0: the shift repeated moves every bit out. -/
theorem eq_zero_of_eq_shiftLeft {w k : Nat} (hk : 0 < k) {x : BitVec w} (h : x = x <<< k) : x = 0#w := by
  have hiter (m : Nat) : x = x <<< (m * k) := by
    induction m with
    | zero => simp
    | succ m ih => rw [Nat.succ_mul, BitVec.shiftLeft_add, ← ih, ← h]
  rw [hiter w]
  exact BitVec.shiftLeft_eq_zero (Nat.le_mul_of_pos_right w hk)

theorem eq_zero_of_eq_ushiftRight {w k : Nat} (hk : 0 < k) {x : BitVec w} (h : x = x >>> k) : x = 0#w := by
  have hiter (m : Nat) : x = x >>> (m * k) := by
    induction m with
    | zero => simp
    | succ m ih => rw [Nat.succ_mul, BitVec.shiftRight_add, ← ih, ← h]
  rw [hiter w]
  exact BitVec.ushiftRight_eq_zero (Nat.le_mul_of_pos_right w hk)

theorem xor_eq_xor_of_xor_eq_xor {w : Nat} {x a y b : BitVec w} (h : x ^^^ a = y ^^^ b) : x ^^^ y = a ^^^ b := by
  rw [← BitVec.xor_eq_zero_iff] at h ⊢
  rw [← h]
  ac_rfl

theorem xor_shiftLeft_injective {w k : Nat} (hk : 0 < k) : Function.Injective fun x : BitVec w => x ^^^ (x <<< k) :=
  fun x y h => BitVec.xor_eq_zero_iff.1 (eq_zero_of_eq_shiftLeft hk
    ((xor_eq_xor_of_xor_eq_xor h).trans (BitVec.shiftLeft_xor_distrib x y k).symm))

theorem xor_ushiftRight_injective {w k : Nat} (hk : 0 < k) : Function.Injective fun x : BitVec w => x ^^^ (x >>> k) :=
  fun x y h => BitVec.xor_eq_zero_iff.1 (eq_zero_of_eq_ushiftRight hk
    ((xor_eq_xor_of_xor_eq_xor h).trans (BitVec.ushiftRight_xor_distrib x y k).symm))

theorem noiseStep_injective : Function.Injective noiseStep :=
  (xor_shiftLeft_injective (by decide)).comp
    ((xor_ushiftRight_injective (by decide)).comp (xor_shiftLeft_injective (by decide)))

theorem noiseStep_ne_zero {x : Word} (hx : x ≠ 0#32) : noiseStep x ≠ 0#32 :=
  noiseStep_injective.ne_iff' (by decide) |>.2 hx

theorem noiseBlock_snd_ne_zero (n : Nat) {x : Word} (hx : x ≠ 0#32) : (noiseBlock n x).2 ≠ 0#32 := by
  induction n generalizing x with
  | zero => exact hx
  | succ n ih => exact ih (noiseStep_ne_zero hx)

theorem waveBlock_snd_ne_zero (w : Waveform) (phases : List Word) {nz : Word} (h : nz ≠ 0#32) :
    (waveBlock w phases nz).2 ≠ 0#32 := by
  cases w with
  | sine => exact h
  | square => exact h
  | noise => exact noiseBlock_snd_ne_zero _ h

theorem noiseSeedFor_ne_zero (base : Word) (seq : BitVec 64) (g : Nat) : noiseSeedFor base seq g ≠ 0#32 := by
  simp only [noiseSeedFor]
  split
  · decide
  · assumption

end Sys2Proof.Machine
end

section
/-! SUPPORT. What a command makes of a legal voice (10_state.md R44): the release trigger, a block, a new voice. -/

namespace Sys2Proof.Machine

/-- An IDLE envelope is at +0.0 (R178). -/
abbrev IdleAtZero (est : Stage) (env : F64) : Prop := est = .idle → env = fZero

theorem passOnce_idleAtZero (t : Template) {p : EnvPoint} (h : IdleAtZero p.1 p.2) :
    IdleAtZero (passOnce t p).1 (passOnce t p).2 := by
  obtain ⟨est, env⟩ := p
  cases est with
  | attack => simp only [passOnce]; split <;> nofun
  | decay => simp only [passOnce]; split <;> nofun
  | sustain => nofun
  | release =>
    simp only [passOnce]
    split
    · exact fun _ => rfl
    · nofun
  | idle => exact h

theorem stageBlock_idleAtZero (t : Template) (n : Nat) {p : EnvPoint} (h : IdleAtZero p.1 p.2) :
    IdleAtZero (stageBlock t n p).est (stageBlock t n p).env := by
  obtain ⟨est, env⟩ := p
  cases est with
  | attack => simp only [stageBlock, attackBlock]; split <;> nofun
  | decay => simp only [stageBlock, decayBlock]; split <;> nofun
  | sustain => nofun
  | release =>
    simp only [stageBlock, releaseBlock]
    split
    · exact fun _ => rfl
    · nofun
  | idle => exact h

theorem envelopeBlock_idleAtZero (t : Template) (n : Nat) {est : Stage} {env : F64} (h : IdleAtZero est env) :
    IdleAtZero (envelopeBlock t n est env).est (envelopeBlock t n est env).env :=
  stageBlock_idleAtZero t n (passOnce_idleAtZero t (passOnce_idleAtZero t (passOnce_idleAtZero t h)))

@[simp] theorem releaseStage_eq_idle {est : Stage} : releaseStage est = .idle ↔ est = .idle := by
  cases est <;> simp [releaseStage]

theorem newVoice_ok (b : Build) (s : State) : VoiceOk b (newVoice s) := by
  refine ⟨fun k _ => ?_, noiseSeedFor_ne_zero _ _ _, Nat.zero_le _⟩
  rw [newVoice, Quad.get_ofFn]
  exact ⟨noiseSeedFor_ne_zero _ _ _, nofun⟩

theorem releaseVoice_ok {b : Build} {v : Voice} (h : VoiceOk b v) : VoiceOk b (releaseVoice v) := by
  obtain ⟨hosc, hrest⟩ := h
  refine ⟨fun k hk => ?_, hrest⟩
  obtain ⟨hnz, hidle⟩ := hosc k hk
  rw [releaseVoice, Quad.get_ofFn]
  exact ⟨hnz, fun h => hidle (releaseStage_eq_idle.1 h)⟩

theorem releaseIfNote_ok {b : Build} {v : Voice} (note : Word) (h : VoiceOk b v) : VoiceOk b (releaseIfNote note v) := by
  unfold releaseIfNote
  split
  · exact releaseVoice_ok h
  · exact h

@[simp] theorem releaseIfNote_seq (note : Word) (v : Voice) : (releaseIfNote note v).seq = v.seq := by
  unfold releaseIfNote; split <;> rfl

theorem fadeAfter_le (len c0 : BitVec 16) (n : Nat) : (fadeAfter len c0 n).toNat ≤ len.toNat :=
  (Nat.mod_le _ _).trans (Nat.min_le_right _ _)

theorem voiceBlock_ok {s : State} {v : Voice} (h : VoiceOk s.build v) : VoiceOk s.build (voiceBlock s v).2 := by
  obtain ⟨hosc, ham, -⟩ := h
  refine ⟨fun k hk => ?_, waveBlock_snd_ne_zero _ _ ham, fadeAfter_le _ _ _⟩
  obtain ⟨hnz, hidle⟩ := hosc k hk
  simp only [voiceBlock, voiceOscillators, voiceEnvelopes, Quad.get_ofFn]
  exact ⟨waveBlock_snd_ne_zero _ _ hnz, envelopeBlock_idleAtZero _ _ hidle⟩

end Sys2Proof.Machine
end

section
/-! SUPPORT. The valid voices as a list (10_state.md R43): what NOTE_ON, NOTE_OFF and PULL make of it, and that it stays
legal (R44, R50). -/

namespace Sys2Proof.Machine

/-! ### The valid voices after an operation on the table -/

theorem validVoices_dropSeq_sublist (q : BitVec 64) (vs : List Voice) :
    (validVoices (dropSeq q vs)).Sublist (validVoices vs) := by
  induction vs with
  | nil => exact .refl _
  | cons v rest ih =>
    simp only [dropSeq]
    split
    · rename_i hv
      rw [validVoices_cons, validVoices_cons, invalidate_valid, hv.1]
      exact List.sublist_cons_self v _
    · rw [validVoices_cons, validVoices_cons]
      split
      · exact ih.cons_cons v
      · exact ih

theorem validVoices_evictOldest_sublist (vs : List Voice) : (validVoices (evictOldest vs)).Sublist (validVoices vs) := by
  unfold evictOldest
  split
  · exact .refl _
  · exact validVoices_dropSeq_sublist _ vs

theorem validVoices_evictWhileFull_sublist (maxv fuel : Nat) (vs : List Voice) :
    (validVoices (evictWhileFull maxv fuel vs)).Sublist (validVoices vs) := by
  induction fuel generalizing vs with
  | zero => exact .refl _
  | succ fuel ih =>
    simp only [evictWhileFull]
    split
    · exact (ih _).trans (validVoices_evictOldest_sublist vs)
    · exact .refl _

/-- Placing a voice adds it to the valid ones. -/
theorem validVoices_placeVoice_perm {v : Voice} (hv : v.valid = true) {vs ws : List Voice}
    (h : placeVoice v vs = some ws) : (validVoices ws).Perm (v :: validVoices vs) := by
  induction vs generalizing ws with
  | nil => cases h
  | cons u rest ih =>
    simp only [placeVoice] at h
    split at h
    · rename_i hu
      obtain ⟨ys, hys, rfl⟩ := Option.map_eq_some_iff.1 h
      rw [validVoices_cons, validVoices_cons, if_pos hu, if_pos hu]
      exact ((ih hys).cons u).trans (.swap v u _)
    · rename_i hu
      cases h
      rw [validVoices_cons, validVoices_cons, if_pos hv, if_neg hu]

theorem length_of_placeVoice {v : Voice} {vs ws : List Voice} (h : placeVoice v vs = some ws) :
    ws.length = vs.length := by
  obtain ⟨i, -, -, rfl⟩ := placeVoice_eq_some h
  exact List.length_set

/-- A map that changes no validity acts on the valid voices alone. -/
theorem validVoices_map {f : Voice → Voice} (hf : ∀ v, (f v).valid = v.valid) (vs : List Voice) :
    validVoices (vs.map f) = (validVoices vs).map f := by
  simp only [validVoices, List.filter_map, Function.comp_def, hf]

/-- The valid voices after a PULL are some of those before it, each after its block. -/
theorem validVoices_pulled_sublist (s : State) (vs : List Voice) :
    (validVoices (vs.map (pulledSlot s))).Sublist ((validVoices vs).map fun v => (voiceBlock s v).2) := by
  induction vs with
  | nil => exact .refl _
  | cons v rest ih =>
    rw [List.map_cons, validVoices_cons, validVoices_cons]
    cases hv : v.valid with
    | false => simpa [pulledSlot_of_invalid hv, hv] using ih
    | true =>
      simp only [pulledSlot, hv, if_true, pruneIdle, List.map_cons]
      split
      · exact ih.cons _
      · rw [voiceBlock_valid, hv]
        exact ih.cons_cons _

/-! ### Legality of the list of valid voices -/

/-- The voices of the list are legal in build `b`, with distinct sequence numbers below `q`. -/
def LegalVoices (b : Build) (q : BitVec 64) (vs : List Voice) : Prop :=
  (∀ v ∈ vs, VoiceOk b v ∧ v.seq.toNat < q.toNat) ∧ (vs.map (·.seq)).Nodup

theorem State.voicesOk_iff (s : State) : s.VoicesOk ↔ LegalVoices s.build s.vseq (validVoices s.voices) := Iff.rfl

theorem LegalVoices.sublist {b : Build} {q : BitVec 64} {vs ws : List Voice} (h : LegalVoices b q vs)
    (hws : ws.Sublist vs) : LegalVoices b q ws :=
  ⟨fun v hv => h.1 v (hws.subset hv), h.2.sublist (hws.map _)⟩

theorem LegalVoices.perm {b : Build} {q : BitVec 64} {vs ws : List Voice} (h : LegalVoices b q vs)
    (hws : ws.Perm vs) : LegalVoices b q ws :=
  ⟨fun v hv => h.1 v (hws.subset hv), (hws.map _).nodup_iff.2 h.2⟩

/-- A change of each voice that keeps it legal and keeps its number keeps the list legal. -/
theorem LegalVoices.map {b : Build} {q : BitVec 64} {vs : List Voice} {f : Voice → Voice} (h : LegalVoices b q vs)
    (hok : ∀ v, VoiceOk b v → VoiceOk b (f v)) (hseq : ∀ v, (f v).seq = v.seq) : LegalVoices b q (vs.map f) := by
  refine ⟨List.forall_mem_map.2 fun v hv => ?_, ?_⟩
  · rw [hseq]
    exact (h.1 v hv).imp_left (hok v)
  · simpa only [List.map_map, Function.comp_def, hseq] using h.2

/-- A legal voice numbered VSEQ joins, and VSEQ goes on to the next number (R50, R229). -/
theorem LegalVoices.cons {b : Build} {v : Voice} {vs : List Voice} (h : LegalVoices b v.seq vs) (hv : VoiceOk b v)
    (hq : v.seq ≠ 0xFFFFFFFFFFFFFFFF#64) : LegalVoices b (v.seq + 1#64) (v :: vs) := by
  have hsucc : (v.seq + 1#64).toNat = v.seq.toNat + 1 := by bv_omega
  obtain ⟨hall, hnodup⟩ := h
  refine ⟨List.forall_mem_cons.2 ⟨⟨hv, by omega⟩, fun u hu => ?_⟩, List.nodup_cons.2 ⟨fun hmem => ?_, hnodup⟩⟩
  · obtain ⟨hok, hlt⟩ := hall u hu
    exact ⟨hok, by omega⟩
  · obtain ⟨u, hu, huq⟩ := List.mem_map.1 hmem
    obtain ⟨-, hlt⟩ := hall u hu
    exact Nat.ne_of_lt hlt (congrArg BitVec.toNat huq)

end Sys2Proof.Machine
end

section
/-! SUPPORT. The cycle check under the commands that change the routing graph (43_routing.md R204, R210 to R213). -/

namespace Sys2Proof.Machine

/-- The check reads the graph and nothing else of the templates. -/
theorem cyclic_congr {ts us : Quad Template} (h : ∀ k j, edge ts k j = edge us k j) : cyclic ts = cyclic us := by
  have hreach (n : Nat) : ∀ k j, reaches ts n k j = reaches us n k j := by
    induction n with
    | zero => exact fun _ _ => rfl
    | succ n ih => simp only [reaches, h, ih, implies_true]
  simp only [cyclic, hreach]

theorem edge_congr {ts us : Quad Template} (hp : ∀ k, (ts.get k).present = (us.get k).present)
    (ht : ∀ k, (ts.get k).targets = (us.get k).targets) (k j : Slot) : edge ts k j = edge us k j := by
  simp only [edge, hp, ht]

theorem cyclic_updateTemplate {f : Template → Template} (hf : KeepsRouting f) (k : Slot) (s : State) :
    cyclic (updateTemplate k f s).templates = cyclic s.templates := by
  have hget (j : Slot) : ((updateTemplate k f s).templates.get j).present = (s.templates.get j).present ∧
      ((updateTemplate k f s).templates.get j).targets = (s.templates.get j).targets := by
    rcases eq_or_ne j k with rfl | hj
    · rw [updateTemplate_templates, Quad.get_set_self]
      exact hf _
    · rw [updateTemplate_templates, Quad.get_set_of_ne _ _ hj]
      exact ⟨rfl, rfl⟩
  exact cyclic_congr (edge_congr (fun j => (hget j).1) fun j => (hget j).2)

/-- A path in a graph whose edges all lead to a later slot leads to a later slot. -/
theorem index_lt_of_reaches {ts : Quad Template} (h : ∀ k j, edge ts k j = true → k.index < j.index) {n : Nat}
    {k j : Slot} (hr : reaches ts n k j = true) : k.index < j.index := by
  induction n generalizing k with
  | zero => cases hr
  | succ n ih =>
    simp only [reaches, Bool.or_eq_true, List.any_eq_true, Bool.and_eq_true] at hr
    rcases hr with he | ⟨m, -, he, hm⟩
    · exact h k j he
    · exact (h k m he).trans (ih hm)

theorem cyclic_eq_false_of_rising {ts : Quad Template} (h : ∀ k j, edge ts k j = true → k.index < j.index) :
    cyclic ts = false := by
  rw [cyclic, List.any_eq_false]
  exact fun k _ hk => Nat.lt_irrefl _ (index_lt_of_reaches h hk)

/-- Every preset mask holds later slots only (R213). -/
theorem presetOperand_rising {sub : BitVec 4} {masks : Quad (BitVec 4)} (h : presetOperand sub = .ok masks) (k j : Slot)
    (hkj : (masks.get k).getLsbD j.index = true) : k.index < j.index := by
  unfold presetOperand at h
  split at h <;> cases h
  all_goals
    revert hkj
    cases k <;> cases j <;> decide

theorem cyclic_preset {sub : BitVec 4} {masks : Quad (BitVec 4)} (h : presetOperand sub = .ok masks)
    (ts : Quad Template) : cyclic (Quad.ofFn fun k => { ts.get k with targets := masks.get k }) = false := by
  refine cyclic_eq_false_of_rising fun k j hkj => presetOperand_rising h k j ?_
  simp only [edge, Quad.get_ofFn, Bool.and_eq_true] at hkj
  exact hkj.2

theorem passCoefficients_cutoff {p : PassFilter} {ty : FilterType} {c : Word} (hp : cutoffLegal p.cutoff = true)
    (h : ty = .none ∨ cutoffLegal c = true) : cutoffLegal (passCoefficients p ty c).cutoff = true := by
  cases ty with
  | none => exact hp
  | low => exact h.resolve_left nofun
  | high => exact h.resolve_left nofun

end Sys2Proof.Machine
end

section
/-! SUPPORT. Every step keeps a state legal: each part of `State.Inv` under the error procedure, every accepted command,
every register access and both resets. -/

namespace Sys2Proof.Machine

/-! ### The error procedure -/

theorem errorNumber_range (c : ErrCode) : 1 ≤ (errorNumber c).toNat ∧ (errorNumber c).toNat ≤ 5 := by
  cases c <;> decide

theorem raiseError_errorsOk (c : ErrCode) (w : Word) {s : State} (h : s.ErrorsOk) : (raiseError c w s).ErrorsOk := by
  obtain ⟨-, hset⟩ := h
  refine ⟨fun h => absurd h (by simp), fun _ => ?_⟩
  rw [raiseError_errCode]
  split
  · exact hset ‹_›
  · exact errorNumber_range c

theorem raiseError_inv (c : ErrCode) (w : Word) {s : State} (h : s.Inv) : (raiseError c w s).Inv := by
  obtain ⟨hsizes, herrors, hconfig, hvoices⟩ := h
  refine ⟨?_, raiseError_errorsOk c w herrors, ?_, ?_⟩
  · simpa only [State.SizesOk, raiseError_build, raiseError_voices, raiseError_out, raiseError_maxv] using hsizes
  · simpa only [State.ConfigOk, raiseError_templates, raiseError_tremolo, raiseError_pass] using hconfig
  · simpa only [State.VoicesOk, raiseError_build, raiseError_voices, raiseError_vseq] using hvoices

/-! ### Resets -/

theorem resetBlock_inv {s : State} (h : s.build.Legal) : (resetBlock s).Inv := State.resetFor_inv h

/-! ### Accepted commands -/

theorem Accepted.sizesOk {i : Instr} {s t : State} (h : Accepted i s t) (hs : s.SizesOk) : t.SizesOk := by
  obtain ⟨hbuild, hvoices, hout, hmaxv⟩ := hs
  cases h
  case softReset => exact State.resetFor_sizesOk hbuild
  case setMaxv hrange =>
    have hmaxv : (s.arg0.setWidth 8).toNat = s.arg0.toNat :=
      (BitVec.toNat_setWidth _ _).trans (Nat.mod_eq_of_lt (by omega))
    exact ⟨hbuild, hvoices, hout, by simpa only [hmaxv] using hrange⟩
  case noteOn vs _ hplace =>
    have hlen : vs.length = s.voices.length := by rw [length_of_placeVoice hplace, evictWhileFull_length]
    exact ⟨hbuild, hlen.trans hvoices, hout, hmaxv⟩
  case noteOff => exact ⟨hbuild, (List.length_map _).trans hvoices, hout, hmaxv⟩
  case pull => exact ⟨hbuild, (List.length_map _).trans hvoices, pulledOut_length s, hmaxv⟩
  all_goals exact ⟨hbuild, hvoices, hout, hmaxv⟩

theorem Accepted.errorsOk {i : Instr} {s t : State} (h : Accepted i s t) (hs : s.ErrorsOk) : t.ErrorsOk := by
  cases h
  case clearErr => exact ⟨fun _ => ⟨rfl, rfl, rfl⟩, nofun⟩
  case softReset => exact ⟨fun _ => ⟨rfl, rfl, rfl⟩, nofun⟩
  all_goals exact hs

theorem updateTemplate_configOk {k : Slot} {f : Template → Template} {s : State} (hf : KeepsTemplateOk f)
    (hr : KeepsRouting f ∨ cyclic (updateTemplate k f s).templates = false) (hs : s.ConfigOk) :
    (updateTemplate k f s).ConfigOk := by
  obtain ⟨hok, hacyclic, hrest⟩ := hs
  refine ⟨fun j hj => ?_, hr.elim (fun hr => (cyclic_updateTemplate hr k s).trans hacyclic) id, hrest⟩
  rw [updateTemplate_templates]
  rcases eq_or_ne j k with rfl | hjk
  · rw [Quad.get_set_self]
    exact hf _ (hok j hj)
  · rw [Quad.get_set_of_ne _ _ hjk]
    exact hok j hj

theorem Accepted.configOk {i : Instr} {s t : State} (h : Accepted i s t) (hs : s.ConfigOk) : t.ConfigOk := by
  cases h
  case softReset => exact State.resetFor_configOk s.build
  case slot k f hf _ hr => exact updateTemplate_configOk hf hr hs
  all_goals obtain ⟨hok, hacyclic, htremolo, hpass⟩ := hs
  case preset masks hmasks =>
    refine ⟨fun k hk => ?_, cyclic_preset hmasks s.templates, htremolo, hpass⟩
    rw [Quad.get_ofFn]
    exact hok k hk
  case tremolo hr => exact ⟨hok, hacyclic, hr htremolo, hpass⟩
  case pass hc => exact ⟨hok, hacyclic, htremolo, passCoefficients_cutoff hpass hc⟩
  all_goals exact ⟨hok, hacyclic, htremolo, hpass⟩

theorem Accepted.voicesOk {i : Instr} {s t : State} (h : Accepted i s t) (hs : s.VoicesOk) : t.VoicesOk := by
  rw [State.voicesOk_iff] at hs ⊢
  cases h
  case softReset => exact State.resetFor_voicesOk s.build
  case noteOn vs hq hplace =>
    have hstay := hs.sublist (validVoices_evictWhileFull_sublist s.maxv.toNat s.voices.length s.voices)
    exact (LegalVoices.cons (v := newVoice s) hstay (newVoice_ok s.build s) hq).perm
      (validVoices_placeVoice_perm rfl hplace)
  case noteOff =>
    rw [validVoices_map (releaseIfNote_valid s.arg0)]
    exact hs.map (fun _ => releaseIfNote_ok s.arg0) (releaseIfNote_seq s.arg0)
  case pull =>
    exact (hs.map (fun _ => voiceBlock_ok) (voiceBlock_seq s)).sublist (validVoices_pulled_sublist s s.voices)
  all_goals exact hs

theorem Accepted.inv {i : Instr} {s t : State} (h : Accepted i s t) (hs : s.Inv) : t.Inv := by
  obtain ⟨hsizes, herrors, hconfig, hvoices⟩ := hs
  exact ⟨h.sizesOk hsizes, h.errorsOk herrors, h.configOk hconfig, h.voicesOk hvoices⟩

/-! ### Bus events and steps -/

/-- Legality is not about the accesses to come, the answer or the operand registers. -/
theorem writeRegister_inv (a : Addr) (v : Word) {s : State} (h : s.Inv) : (writeRegister s a v).Inv := by
  unfold writeRegister
  split_ifs <;> exact h

theorem runCommand_inv {w : Word} {s t : State} (h : runCommand w s = .next t) (hs : s.Inv) : t.Inv := by
  rcases runCommand_next h with ⟨c, w', rfl⟩ | ⟨i, -, ha⟩
  · exact raiseError_inv c w' hs
  · exact ha.inv hs

theorem busEvent_inv {e : BusEvent} {s t : State} (h : busEvent e s = .next t) (hs : s.Inv) : t.Inv := by
  rcases busEvent_next h with ⟨a, rfl⟩ | ⟨a, v, rfl⟩ | ⟨w, hw⟩ | rfl
  · exact hs
  · exact writeRegister_inv a v hs
  · exact runCommand_inv hw hs
  · obtain ⟨⟨hbuild, -⟩, -⟩ := hs
    exact resetBlock_inv hbuild

/-- Settles O59: the idle step changes nothing, and every bus event keeps a state legal. -/
theorem stepKeepsLegal : Obligations.StepKeepsLegal := by
  intro s t hs h
  cases hbus : s.bus with
  | nil =>
    rw [step_of_bus_nil hbus] at h
    cases h
    exact hs
  | cons e rest =>
    rw [step_of_bus hbus] at h
    exact busEvent_inv h hs

end Sys2Proof.Machine
end

section
/-! SUPPORT. Which commands change OUT, BLOCKCOUNT, VSEQ and the membership of the voice table (10_state.md R33, R50;
44_voice_mixer.md R240, R244). -/

namespace Sys2Proof.Machine

/-- Only PULL and SOFT_RESET write OUT or BLOCKCOUNT (R240). -/
theorem Accepted.output {i : Instr} {s t : State} (h : Accepted i s t) (hreset : i ≠ .softReset) (hpull : i ≠ .pull) :
    t.out = s.out ∧ t.blockCount = s.blockCount := by
  cases h
  case softReset => exact absurd rfl hreset
  case pull => exact absurd rfl hpull
  all_goals exact ⟨rfl, rfl⟩

/-- NOTE_OFF is the one other command that writes voices, and it leaves every slot's validity (R230, R244). -/
theorem Accepted.membership {i : Instr} {s t : State} (h : Accepted i s t) (hreset : i ≠ .softReset)
    (hon : i ≠ .noteOn) (hpull : i ≠ .pull) : t.voices.map (·.valid) = s.voices.map (·.valid) := by
  cases h
  case softReset => exact absurd rfl hreset
  case noteOn => exact absurd rfl hon
  case pull => exact absurd rfl hpull
  case noteOff => simp only [List.map_map, Function.comp_def, releaseIfNote_valid]
  all_goals rfl

theorem Accepted.vseq {i : Instr} {s t : State} (h : Accepted i s t) (hreset : i ≠ .softReset) (hon : i ≠ .noteOn) :
    t.vseq = s.vseq := by
  cases h
  case softReset => exact absurd rfl hreset
  case noteOn => exact absurd rfl hon
  all_goals rfl

/-- Settles O55: the error procedure keeps all four, and so does every other accepted effect. -/
theorem outputAndMembershipChangeOnlyThere : Obligations.OutputAndMembershipChangeOnlyThere := by
  intro i s t h hreset
  rcases exec_next h with ⟨c, rfl⟩ | ha
  · simp
  · exact ⟨ha.output hreset, ha.membership hreset, ha.vseq hreset⟩

end Sys2Proof.Machine
end

section
/-! SUPPORT. The register window (20_memory.md R64 to R68): STATUS and PARAM as numbers, and what each register reads as. -/

namespace Sys2Proof.Machine

@[simp] theorem flagBit_toNat (b : Bool) : (flagBit b).toNat = if b then 1 else 0 := by cases b <;> rfl

/-- The low byte of STATUS, its four flags (R27, R276). -/
def statusFlags (s : State) : Nat :=
  (if s.err then 1 else 0) + 2 * (if s.errOvf then 1 else 0) + 4 * (if s.irqEn then 1 else 0) +
    8 * (if s.err ∧ s.irqEn then 1 else 0)

theorem statusFlags_lt (s : State) : statusFlags s < 16 := by
  simp only [statusFlags]
  split_ifs <;> omega

theorem toNat_append_eq {m n : Nat} (x : BitVec m) (y : BitVec n) : (x ++ y).toNat = x.toNat * 2 ^ n + y.toNat := by
  rw [BitVec.toNat_append, ← Nat.shiftLeft_add_eq_or_of_lt y.isLt, Nat.shiftLeft_eq]

/-- STATUS is its flags and, in its second byte, the count of the valid voices (R27). -/
theorem statusWord_toNat (s : State) : (statusWord s).toNat = statusFlags s + 256 * (voiceCount s.voices % 256) := by
  have hirq : (flagBit s.irq).toNat = if s.err ∧ s.irqEn then 1 else 0 := by simp [State.irq]
  simp only [statusWord, toNat_append_eq, hirq, flagBit_toNat, BitVec.toNat_ofNat, statusFlags]
  omega

theorem paramWord_toNat {b : Build} (hb : b.Legal) :
    (paramWord b).toNat = b.blockLen + 65536 * b.vmax + 16777216 * 4 := by
  obtain ⟨⟨-, hn⟩, -, hv⟩ := hb
  simp only [paramWord, toNat_append_eq, BitVec.toNat_ofNat]
  omega

/-- 0 at every address past the last register that is not in OUT (R66, R68). -/
theorem readWord_reserved (s : State) {a : Addr}
    (ha : (0x30 ≤ a.toNat ∧ a.toNat < 0x8000) ∨ 0x8000 + 8 * s.build.blockLen ≤ a.toNat) : readWord s a = 0#32 := by
  have hreg (b : Addr) (hb : b.toNat < 0x30) : a ≠ b := fun h => by rw [h] at ha; omega
  have hout : ¬ (0x8000 ≤ a.toNat ∧ a.toNat < 0x8000 + 8 * s.build.blockLen) := by omega
  simp [readWord, hreg, hout]

/-- Settles O10: each register is its own branch of the read. -/
theorem registerMapReads : Obligations.RegisterMapReads := by
  intro s
  refine ⟨rfl, fun hcount => ?_, ?_, rfl, rfl, rfl, rfl, rfl, fun hb => paramWord_toNat hb, ?_, ?_, rfl,
    fun a => readWord_reserved s⟩
  · rw [show readWord s 0x0004#16 = statusWord s from rfl, statusWord_toNat, Nat.mod_eq_of_lt (by omega)]
    rfl
  · exact BitVec.toNat_setWidth_of_le (b := s.errCode) (by decide)
  · exact BitVec.toNat_setWidth_of_le (b := s.build.fadeLen) (by decide)
  · exact BitVec.toNat_setWidth_of_le (b := s.maxv) (by decide)

theorem outWord_resetFor (b : Build) (off : Nat) : outWord (State.resetFor b) off = 0#32 := by
  have hzero : (State.resetFor b).out.getD (off / 8) fZero = fZero :=
    List.getElem?_getD_replicate_default_eq _ _ _
  simp only [outWord, hzero]
  split <;> rfl

theorem statusWord_resetFor (b : Build) : statusWord (State.resetFor b) = 0#32 := by
  have hcount : voiceCount (State.resetFor b).voices = 0 := by simp [voiceCount, State.resetFor]
  apply BitVec.eq_of_toNat_eq
  rw [statusWord_toNat, hcount]
  rfl

/-- Settles O12: the registers the reset leaves at 0, and OUT, read as 0. -/
theorem resetReads : Obligations.ResetReads := by
  intro b hb
  refine ⟨rfl, statusWord_resetFor b, paramWord_toNat hb, ?_, ?_, rfl, fun a _ h0 h20 h24 h28 h2C => ?_⟩
  · exact BitVec.toNat_setWidth_of_le (b := b.fadeLen) (by decide)
  · obtain ⟨-, -, hv⟩ := hb
    exact BitVec.setWidth_ofNat_of_le_of_lt (w := 8) (by decide) (Nat.lt_succ_of_le hv)
  · simp only [readWord, h0, h20, h24, h28, h2C, if_false]
    split_ifs
    exacts [statusWord_resetFor b, rfl, rfl, rfl, rfl, rfl, rfl, outWord_resetFor b _, rfl]

end Sys2Proof.Machine
end

section
/-! SUPPORT. One byte of the register window (20_memory.md R64): the register it is a lane of, and which commands can change
it. -/

namespace Sys2Proof.Machine

/-! ### Lanes -/

theorem extractLane_toNat (x : Word) (k : Nat) : (x.extractLsb' (8 * k) 8).toNat = x.toNat / 2 ^ (8 * k) % 2 ^ 8 := by
  rw [BitVec.extractLsb'_toNat, Nat.shiftRight_eq_div_pow]

/-- Lane 0 of STATUS is its flags, lane 1 the count of voices, and the others are 0 (R27). -/
theorem statusWord_lane_congr {s t : State} {k : Nat} (hk : k < 4) (hflags : k = 0 → statusFlags t = statusFlags s)
    (hcount : k = 1 → voiceCount t.voices = voiceCount s.voices) :
    (statusWord t).extractLsb' (8 * k) 8 = (statusWord s).extractLsb' (8 * k) 8 := by
  have hs := statusFlags_lt s
  have ht := statusFlags_lt t
  apply BitVec.eq_of_toNat_eq
  rw [extractLane_toNat, extractLane_toNat, statusWord_toNat, statusWord_toNat]
  interval_cases k <;> omega

/-- A byte read as a word stands in lane 0. -/
theorem setWidth_lane_congr {x y : Byte} {k : Nat} (h : k = 0 → x = y) :
    (x.setWidth 32).extractLsb' (8 * k) 8 = (y.setWidth 32).extractLsb' (8 * k) 8 := by
  rcases Nat.eq_zero_or_pos k with h0 | hpos
  · rw [h h0]
  · have hzero (z : Byte) : (z.setWidth 32).extractLsb' (8 * k) 8 = 0#8 := by
      apply BitVec.eq_of_toNat_eq
      rw [extractLane_toNat, BitVec.toNat_setWidth_of_le (by decide), Nat.div_eq_of_lt]
      · rfl
      · exact z.isLt.trans_le (Nat.pow_le_pow_right (by decide) (by omega))
    rw [hzero, hzero]

theorem wordAddr_toNat (a : Addr) : (a &&& 0xFFFC#16).toNat = a.toNat / 4 * 4 := by
  have h : a &&& 0xFFFC#16 = (a >>> 2) <<< 2 := by
    apply BitVec.eq_of_getLsbD_eq
    intro i hi
    interval_cases i <;> simp
  rw [h, BitVec.toNat_shiftLeft, BitVec.toNat_ushiftRight, Nat.shiftLeft_eq, Nat.shiftRight_eq_div_pow]
  omega

/-! ### What a byte reads -/

/-- `s` and `t` have the same build and operand registers, and agree on whatever else stands in the byte at `a` (R66). -/
structure SameByte (s t : State) (a : Addr) : Prop where
  build : t.build = s.build
  arg0 : t.arg0 = s.arg0
  arg1 : t.arg1 = s.arg1
  flags : a.toNat = 0x04 → statusFlags t = statusFlags s
  count : a.toNat = 0x05 → voiceCount t.voices = voiceCount s.voices
  errCode : a.toNat = 0x08 → t.errCode = s.errCode
  errCmd : 0x0C ≤ a.toNat ∧ a.toNat < 0x10 → t.errCmd = s.errCmd
  blockCount : 0x1C ≤ a.toNat ∧ a.toNat < 0x20 → t.blockCount = s.blockCount
  maxv : 0x28 ≤ a.toNat ∧ a.toNat < 0x2C → t.maxv = s.maxv
  noiseSeed : 0x2C ≤ a.toNat ∧ a.toNat < 0x30 → t.noiseSeed = s.noiseSeed
  out : 0x8000 ≤ a.toNat ∧ a.toNat < 0x8000 + 8 * s.build.blockLen → t.out = s.out

theorem ite_lane_congr {c : Prop} [Decidable c] {x y x' y' : Word} {i : Nat}
    (h : c → x.extractLsb' i 8 = y.extractLsb' i 8) (h' : x'.extractLsb' i 8 = y'.extractLsb' i 8) :
    (if c then x else x').extractLsb' i 8 = (if c then y else y').extractLsb' i 8 := by
  split
  · exact h ‹c›
  · exact h'

/-- Register by register in the order of the map R66. -/
theorem SameByte.windowByte_eq {s t : State} {a : Addr} (h : SameByte s t a) : windowByte t a = windowByte s a := by
  have hword := wordAddr_toNat a
  have hlane : a.toNat % 4 < 4 := Nat.mod_lt _ (by decide)
  have hin {b : Addr} (hb : a &&& 0xFFFC#16 = b) : b.toNat ≤ a.toNat ∧ a.toNat < b.toNat + 4 := by
    rw [← hb]; omega
  simp only [windowByte, readWord, h.build, h.arg0, h.arg1]
  refine ite_lane_congr (fun _ => rfl) <| ite_lane_congr (fun hb => ?status) <| ite_lane_congr (fun hb => ?errCode) <|
    ite_lane_congr (fun hb => by rw [h.errCmd (hin hb)]) <| ite_lane_congr (fun _ => rfl) <|
    ite_lane_congr (fun _ => rfl) <| ite_lane_congr (fun _ => rfl) <|
    ite_lane_congr (fun hb => by rw [h.blockCount (hin hb)]) <| ite_lane_congr (fun _ => rfl) <|
    ite_lane_congr (fun _ => rfl) <| ite_lane_congr (fun hb => by rw [h.maxv (hin hb)]) <|
    ite_lane_congr (fun hb => by rw [h.noiseSeed (hin hb)]) <| ite_lane_congr (fun hb => ?out) rfl
  case status =>
    obtain ⟨hle, hlt⟩ : 4 ≤ a.toNat ∧ a.toNat < 8 := hin hb
    exact statusWord_lane_congr hlane (fun hk => h.flags (by omega)) fun hk => h.count (by omega)
  case errCode =>
    obtain ⟨hle, hlt⟩ : 8 ≤ a.toNat ∧ a.toNat < 12 := hin hb
    exact setWidth_lane_congr fun hk => h.errCode (by omega)
  case out =>
    rw [outWord, outWord, h.out (by omega)]

/-! ### What a command changes of the window -/

/-- `t` has MAXV, NOISE_SEED and IRQ_EN of `s`, but for the one that `i` sets: the configuration a host can read (R41). -/
def SameReadableConfig (i : Instr) (s t : State) : Prop :=
  (i ≠ .setMaxv → t.maxv = s.maxv) ∧ (i ≠ .setSeed → t.noiseSeed = s.noiseSeed) ∧
    ((¬ ∃ sub, i = .setIrqEn sub) → t.irqEn = s.irqEn)

theorem Accepted.readableConfig {i : Instr} {s t : State} (h : Accepted i s t) (hreset : i ≠ .softReset) :
    SameReadableConfig i s t := by
  cases h
  case softReset => exact absurd rfl hreset
  case setMaxv => exact ⟨fun hi => absurd rfl hi, fun _ => rfl, fun _ => rfl⟩
  case setSeed => exact ⟨fun _ => rfl, fun hi => absurd rfl hi, fun _ => rfl⟩
  case setIrqEn sub _ => exact ⟨fun _ => rfl, fun _ => rfl, fun hi => absurd ⟨sub, rfl⟩ hi⟩
  all_goals exact ⟨fun _ => rfl, fun _ => rfl, fun _ => rfl⟩

theorem exec_readableConfig {i : Instr} {s t : State} (h : exec i s = .next t) (hreset : i ≠ .softReset) :
    SameReadableConfig i s t := by
  rcases exec_next h with ⟨c, rfl⟩ | ha
  · exact ⟨fun _ => raiseError_maxv c _ s, fun _ => raiseError_noiseSeed c _ s, fun _ => raiseError_irqEn c _ s⟩
  · exact ha.readableConfig hreset

theorem statusFlags_congr {s t : State} (herr : t.err = s.err) (hovf : t.errOvf = s.errOvf) (hirq : t.irqEn = s.irqEn) :
    statusFlags t = statusFlags s := by
  simp only [statusFlags, herr, hovf, hirq]

theorem voiceCount_congr {vs ws : List Voice} (h : ws.map (·.valid) = vs.map (·.valid)) :
    voiceCount ws = voiceCount vs := by
  have hcount (us : List Voice) : voiceCount us = (us.map (·.valid)).countP id := by
    rw [List.countP_map, List.countP_eq_length_filter]
    rfl
  rw [hcount, hcount, h]

/-- The error procedure changes only STATUS, ERRCODE and ERRCMD (R274). -/
theorem raiseError_sameByte (c : ErrCode) (w : Word) (s : State) {a : Addr}
    (ha : ¬ (a.toNat = 0x04 ∨ a.toNat = 0x08 ∨ (0x0C ≤ a.toNat ∧ a.toNat < 0x10))) : SameByte s (raiseError c w s) a where
  build := raiseError_build c w s
  arg0 := raiseError_arg0 c w s
  arg1 := raiseError_arg1 c w s
  flags h := absurd (.inl h) ha
  count _ := congrArg voiceCount (raiseError_voices c w s)
  errCode h := absurd (.inr (.inl h)) ha
  errCmd h := absurd (.inr (.inr h)) ha
  blockCount _ := raiseError_blockCount c w s
  maxv _ := raiseError_maxv c w s
  noiseSeed _ := raiseError_noiseSeed c w s
  out _ := raiseError_out c w s

/-- Settles O57: an accepted command writes a source of the byte only where the byte is excluded, and the error procedure
writes only the error registers. -/
theorem windowFrame : Obligations.WindowFrame := by
  refine fun i s t a h hreset => ⟨fun ⟨herr, hovf, hcode, hcmd⟩ hmaxv hseed hirq hon hpull => ?_, fun ha ⟨c, ht⟩ => ?_⟩
  · obtain ⟨hbuild, -, -, hargs⟩ := commandsKeepOperandsAndBuild i s t h
    obtain ⟨hout, hvalid, -⟩ := outputAndMembershipChangeOnlyThere i s t h hreset
    obtain ⟨harg0, harg1⟩ := hargs hreset
    obtain ⟨hmaxv', hseed', hirq'⟩ := exec_readableConfig h hreset
    refine SameByte.windowByte_eq ⟨hbuild, harg0, harg1, fun ha => ?_, fun ha => ?_,
      fun _ => hcode.symm, fun _ => hcmd.symm, fun ha => ?_, fun ha => ?_, fun ha => ?_, fun ha => ?_⟩
    · exact statusFlags_congr herr.symm hovf.symm (hirq' fun hi => hirq ⟨hi, ha⟩)
    · exact voiceCount_congr (hvalid (fun hi => hon ⟨hi, ha⟩) fun hi => hpull ⟨hi, .inl ha⟩)
    · exact (hout fun hi => hpull ⟨hi, .inr (.inl ha)⟩).2
    · exact hmaxv' fun hi => hmaxv ⟨hi, ha⟩
    · exact hseed' fun hi => hseed ⟨hi, ha⟩
    · exact (hout fun hi => hpull ⟨hi, .inr (.inr ha)⟩).1
  · subst ht
    exact (raiseError_sameByte c (encode i) s ha).windowByte_eq

end Sys2Proof.Machine
end

section
/-! SUPPORT. The decoder and the encoder undo each other (30_encoding.md R91, R94, R96, R97). -/

namespace Sys2Proof

/-- A decoded word has a row of R96, RSV 0 and 0 in the fields the row does not use. -/
theorem decode_eq_ok {w : Word} {i : Instr} (h : decode w = .ok i) :
    ∃ r ∈ opcodeMap, r.op = opField w ∧ rsvField w = 0#16 ∧ (r.usesK = false → kField w = 0#4) ∧
      (r.usesS = false → sField w = 0#4) ∧ r.build (kField w) (sField w) = i := by
  unfold decode at h
  split at h
  · cases h
  · rename_i r hr
    have hop : r.op = opField w := eq_of_beq (List.find?_some hr :)
    split_ifs at h with hrsv hk hsub
    cases h
    exact ⟨r, List.mem_of_find?_eq_some hr, hop, not_not.1 hrsv, fun hK => not_not.1 fun h0 => hk ⟨hK, h0⟩,
      fun hS => not_not.1 fun h0 => hsub ⟨hS, h0⟩, rfl⟩

/-- Row by row of R96, a row's commands are encoded with the row's opcode and their own fields. -/
theorem encode_build {r : OpcodeRow} (hr : r ∈ opcodeMap) {k sub : BitVec 4} (hk : r.usesK = false → k = 0#4)
    (hsub : r.usesS = false → sub = 0#4) : encode (r.build k sub) = commandWord r.op k sub := by
  have hrows : ∀ r ∈ opcodeMap, ∀ k sub, encode (r.build k sub) =
      commandWord r.op (if r.usesK then k else 0#4) (if r.usesS then sub else 0#4) := by
    simp [opcodeMap, systemRows, slotRows, voiceRows, encode]
  rw [hrows r hr]
  congr 1
  · split_ifs with h
    exacts [rfl, (hk (by simpa using h)).symm]
  · split_ifs with h
    exacts [rfl, (hsub (by simpa using h)).symm]

/-- No bit of a decoded word is dropped. -/
theorem encode_of_decode {w : Word} {i : Instr} (h : decode w = .ok i) : encode i = w := by
  obtain ⟨r, hr, hop, hrsv, hk, hsub, rfl⟩ := decode_eq_ok h
  rw [encode_build hr hk hsub, hop, commandWord_fields w hrsv]

/-- A command that a row builds, with 0 in the fields the row does not use, decodes from its own word. -/
theorem decode_encode_of_row {i : Instr} {r : OpcodeRow} {op : Byte} {k sub : BitVec 4}
    (hi : encode i = commandWord op k sub) (hr : opcodeMap.find? (fun r => r.op == op) = some r)
    (hbuild : r.build k sub = i) (hk : (r.usesK || k == 0#4) = true) (hsub : (r.usesS || sub == 0#4) = true) :
    decode (encode i) = .ok i := by
  have hk' : ¬ (r.usesK = false ∧ k ≠ 0#4) := fun ⟨hK, h0⟩ => by simp [hK, h0] at hk
  have hsub' : ¬ (r.usesS = false ∧ sub ≠ 0#4) := fun ⟨hS, h0⟩ => by simp [hS, h0] at hsub
  simp [decode, hi, hr, hk', hsub', hbuild]

/-- The word of a command decodes to it, whatever its fields hold. -/
theorem decode_encode (i : Instr) : decode (encode i) = .ok i := by
  cases i <;> exact decode_encode_of_row rfl rfl rfl rfl rfl

end Sys2Proof
end

section
/-! SUPPORT. What NOTE_ON and PULL answer, and that from a legal state a command stops only at the end of VSEQ
(43_routing.md R204; 44_voice_mixer.md R227, R228; 60_exceptions.md R289). -/

namespace Sys2Proof.Machine

/-! ### The answers of the two commands that can stop -/

theorem exec_noteOn_vseqEnd {s : State} (h : s.vseq = 0xFFFFFFFFFFFFFFFF#64) : exec .noteOn s = .refused .vseqExhausted :=
  if_pos h

theorem exec_noteOn_noFree {s : State} (hq : s.vseq ≠ 0xFFFFFFFFFFFFFFFF#64)
    (h : placeVoice (newVoice s) (evictWhileFull s.maxv.toNat s.voices.length s.voices) = none) :
    exec .noteOn s = .fault .noFreeVoiceSlot := by
  simp only [exec, execNoteOn, if_neg hq, h]

theorem exec_noteOn_placed {s : State} {vs : List Voice} (hq : s.vseq ≠ 0xFFFFFFFFFFFFFFFF#64)
    (h : placeVoice (newVoice s) (evictWhileFull s.maxv.toNat s.voices.length s.voices) = some vs) :
    exec .noteOn s = .next { s with voices := vs, vseq := s.vseq + 1#64 } := by
  simp only [exec, execNoteOn, if_neg hq, h, finish_ok]

theorem exec_pull_cyclic {s : State} (h : cyclic s.templates = true) : exec .pull s = .fault .cyclicRouting :=
  if_pos h

theorem exec_pull_acyclic {s : State} (h : cyclic s.templates = false) :
    exec .pull s = .next { s with out := pulledOut s, voices := pulledVoices s, blockCount := s.blockCount + 1#32 } := by
  simp only [exec, execPull, h, Bool.false_eq_true, if_false, finish_ok]

/-! ### Eviction leaves a free slot -/

/-- A table with a valid voice has an oldest one. -/
theorem exists_oldestSeq {vs : List Voice} (h : voiceCount vs ≠ 0) : ∃ q, oldestSeq vs = some q := by
  unfold voiceCount at h
  unfold oldestSeq
  cases hvs : validVoices vs with
  | nil => simp [hvs] at h
  | cons v rest =>
    rw [List.foldl_cons]
    refine List.foldlRecOn rest _ (motive := fun best => ∃ q, best = some q) ⟨_, rfl⟩ ?_
    rintro _ ⟨q, rfl⟩ u -
    exact ⟨_, rfl⟩

/-- A round of eviction frees one slot. -/
theorem voiceCount_evictOldest {vs : List Voice} (h : voiceCount vs ≠ 0) :
    voiceCount (evictOldest vs) + 1 = voiceCount vs := by
  obtain ⟨q, hq⟩ := exists_oldestSeq h
  simp only [evictOldest, hq]
  exact dropSeq_count (oldestSeq_eq_some hq).1

/-- With MAXV not 0 and a round for every voice, fewer than MAXV voices are left (R227). -/
theorem voiceCount_evictWhileFull_lt {maxv fuel : Nat} {vs : List Voice} (hmaxv : 1 ≤ maxv) (hfuel : voiceCount vs ≤ fuel) :
    voiceCount (evictWhileFull maxv fuel vs) < maxv := by
  induction fuel generalizing vs with
  | zero => exact (Nat.le_zero.1 hfuel).trans_lt hmaxv
  | succ fuel ih =>
    simp only [evictWhileFull]
    split
    · have := voiceCount_evictOldest (vs := vs) (by omega)
      exact ih (by omega)
    · omega

/-- "exists: count < MAXV <= VMAX" (R227): NOTE_ON finds a free slot in every table of VMAX slots. -/
theorem exists_placeVoice_evicted {s : State} (h : s.SizesOk) (v : Voice) :
    ∃ vs, placeVoice v (evictWhileFull s.maxv.toNat s.voices.length s.voices) = some vs := by
  obtain ⟨-, hlen, -, hmin, hmax⟩ := h
  have hcount := voiceCount_evictWhileFull_lt hmin (voiceCount_le_length s.voices)
  exact Option.isSome_iff_exists.1 (placeVoice_isSome.2 (exists_free (by rw [evictWhileFull_length]; omega)))

/-! ### Commands in a legal state -/

/-- From a legal state only NOTE_ON stops, at the end of VSEQ (R204, R227, R289). -/
theorem exec_stops_of_inv {i : Instr} {s : State} (hs : s.Inv) (h : ∀ t, exec i s ≠ .next t) :
    i = .noteOn ∧ s.vseq = 0xFFFFFFFFFFFFFFFF#64 := by
  obtain ⟨hsizes, -, ⟨-, hacyclic, -⟩, -⟩ := hs
  rcases exec_stops h with ⟨rfl, hq | hplace⟩ | ⟨-, hcyclic⟩
  · exact ⟨rfl, hq⟩
  · obtain ⟨vs, hvs⟩ := exists_placeVoice_evicted hsizes (newVoice s)
    cases hplace.symm.trans hvs
  · cases hacyclic.symm.trans hcyclic

theorem runCommand_of_decode_error {w : Word} {e : DecodeError} (h : decode w = .error e) (s : State) :
    runCommand w s = .next (raiseError (decodeErrCode e) w s) := by
  simp only [runCommand, h]

/-- From a legal state a command word is served, or it is NOTE_ON at the end of VSEQ. -/
theorem runCommand_of_inv {s : State} (hs : s.Inv) (w : Word) :
    (∃ t, runCommand w s = .next t) ∨
      (runCommand w s = .refused .vseqExhausted ∧ w = encode .noteOn ∧ s.vseq = 0xFFFFFFFFFFFFFFFF#64) := by
  cases hw : decode w with
  | error e => exact .inl ⟨_, runCommand_of_decode_error hw s⟩
  | ok i =>
    rw [runCommand_of_decode hw]
    by_cases h : ∃ t, exec i s = .next t
    · exact .inl h
    · obtain ⟨rfl, hq⟩ := exec_stops_of_inv hs (not_exists.1 h)
      exact .inr ⟨exec_noteOn_vseqEnd hq, (encode_of_decode hw).symm, hq⟩

end Sys2Proof.Machine
end

section
/-! SUPPORT. Undefined accesses, and that a legal state serves every other one (20_memory.md R63; 60_exceptions.md R289). -/

namespace Sys2Proof.Machine

theorem accessDefined_eq_true {a : Addr} {size : Nat} : accessDefined a size = true ↔ size = 4 ∧ a.toNat % 4 = 0 := by
  simp [accessDefined]

/-- An access is undefined when its size is not 4 bytes or its address is misaligned (R63). -/
theorem accessDefined_eq_false {a : Addr} {size : Nat} : accessDefined a size = false ↔ size ≠ 4 ∨ a.toNat % 4 ≠ 0 := by
  simp [accessDefined, ← imp_iff_not_or]

theorem busEvent_read_undefined {a : Addr} {size : Nat} (h : accessDefined a size = false) (s : State) :
    busEvent (.read a size) s = .refused .busError := by
  simp [busEvent, hostRead, h]

theorem busEvent_write_undefined {a : Addr} {size : Nat} (h : accessDefined a size = false) (v : Word) (s : State) :
    busEvent (.write a size v) s = .refused .busError := by
  simp [busEvent, hostWrite, h]

/-- Settles O8: the access is not defined, and neither kind of access is then served. -/
theorem undefinedAccessIsRefused : Obligations.UndefinedAccessIsRefused := by
  intro s a size v rest h
  have hundef := accessDefined_eq_false.2 h
  exact ⟨fun hbus => (step_of_bus hbus).trans (busEvent_read_undefined hundef _),
    fun hbus => (step_of_bus hbus).trans (busEvent_write_undefined hundef v _)⟩

/-- Settles O60: a defined access that is not a command is served in every state, a command in every legal one but for
NOTE_ON at the end of VSEQ. -/
theorem legalStatesAreServed : Obligations.LegalStatesAreServed := by
  intro s hs
  cases hbus : s.bus with
  | nil => exact .inl ⟨s, step_of_bus_nil hbus⟩
  | cons e rest =>
    rw [step_of_bus hbus]
    cases e with
    | rst => exact .inl ⟨_, rfl⟩
    | read a size =>
      cases hdef : accessDefined a size with
      | false =>
        exact .inr (.inl ⟨busEvent_read_undefined hdef _, a, size, 0#32, rest, accessDefined_eq_false.1 hdef, .inl rfl⟩)
      | true => exact .inl ⟨_, if_pos hdef⟩
    | write a size v =>
      cases hdef : accessDefined a size with
      | false =>
        exact .inr (.inl ⟨busEvent_write_undefined hdef v _, a, size, v, rest, accessDefined_eq_false.1 hdef, .inr rfl⟩)
      | true =>
        obtain ⟨rfl, ha⟩ := accessDefined_eq_true.1 hdef
        by_cases hcmd : a = cmdAddr
        · subst hcmd
          rw [busEvent_write_cmd]
          rcases runCommand_of_inv (s := { s with bus := rest, resp := .writeDone }) hs v with hnext | ⟨hstop, rfl, hq⟩
          · exact .inl hnext
          · exact .inr (.inr ⟨hstop, congrArg BitVec.toNat hq, rest, rfl⟩)
        · exact .inl ⟨_, busEvent_write ha hcmd v _⟩

end Sys2Proof.Machine
end

section
/-! SUPPORT. OUT in the register window (20_memory.md R65, R67). -/

namespace Sys2Proof.Machine

/-- No register stands at 0x8000 or above, so an address of the OUT window reads OUT. -/
theorem readWord_out {s : State} {a : Addr} (ha : 0x8000 ≤ a.toNat ∧ a.toNat < 0x8000 + 8 * s.build.blockLen) :
    readWord s a = outWord s (a.toNat - 0x8000) := by
  have hreg (b : Addr) (hb : b.toNat < 0x8000) : a ≠ b := fun h => by rw [h] at ha; omega
  simp [readWord, hreg, ha]

/-- The word at offset `off` of OUT, for every build that fits the window. -/
theorem readWord_outOffset {s : State} (hb : s.build.Legal) {off : Nat} (hoff : off < 8 * s.build.blockLen) :
    readWord s (BitVec.ofNat 16 (0x8000 + off)) = outWord s off := by
  obtain ⟨⟨-, hlen⟩, -⟩ := hb
  have haddr : (BitVec.ofNat 16 (0x8000 + off)).toNat = 0x8000 + off := Nat.mod_eq_of_lt (by omega)
  rw [readWord_out (by omega), haddr, Nat.add_sub_cancel_left]

theorem outWord_low {s : State} {i : Nat} {x : F64} (hx : s.out[i]? = some x) : outWord s (8 * i) = x.extractLsb' 0 32 := by
  have hi : 8 * i / 8 = i := by omega
  have hlane : 8 * i % 8 = 0 := by omega
  simp [outWord, hi, hlane, hx]

theorem outWord_high {s : State} {i : Nat} {x : F64} (hx : s.out[i]? = some x) :
    outWord s (8 * i + 4) = x.extractLsb' 32 32 := by
  have hi : (8 * i + 4) / 8 = i := by omega
  have hlane : (8 * i + 4) % 8 = 4 := by omega
  simp [outWord, hi, hlane, hx]

/-- Settles O11: both offsets lie in the OUT window, which a legal build fits into the 16-bit addresses. -/
theorem outWindowReads : Obligations.OutWindowReads := by
  intro s i x hb hi hx
  exact ⟨(readWord_outOffset hb (by omega)).trans (outWord_low hx), (readWord_outOffset hb (by omega)).trans (outWord_high hx)⟩

end Sys2Proof.Machine
end

section
/-! SUPPORT. A run over a list of accesses is made of the runs over its parts, and is what the steps do with the accesses on
the bus (20_memory.md R62, R71). -/

namespace Sys2Proof.Machine

theorem runBus_cons_of_next {e : BusEvent} {s t : State} (h : busEvent e s = .next t) (es : List BusEvent) :
    runBus (e :: es) s = runBus es t := by
  simp only [runBus, h]

theorem runBus_singleton (e : BusEvent) (s : State) : runBus [e] s = busEvent e s := by
  simp only [runBus]
  cases busEvent e s <;> rfl

theorem runBus_append {front : List BusEvent} {s t : State} (h : runBus front s = .next t) (rest : List BusEvent) :
    runBus (front ++ rest) s = runBus rest t := by
  induction front generalizing s with
  | nil => cases h; rfl
  | cons e es ih =>
    cases he : busEvent e s with
    | next u =>
      rw [runBus_cons_of_next he] at h
      rw [List.cons_append, runBus_cons_of_next he, ih h]
    | fault r => simp only [runBus, he, reduceCtorEq] at h
    | refused r => simp only [runBus, he, reduceCtorEq] at h

/-! ### The accesses to come -/

/-- The state with other accesses to come. -/
def State.withBus (b : List BusEvent) (s : State) : State := { s with bus := b }

/-- An answer with its next state, if there is one, changed by `f`. -/
def Result.mapNext (f : State → State) : Result → Result
  | .next t => .next (f t)
  | .fault r => .fault r
  | .refused r => .refused r

theorem raiseError_withBus (b : List BusEvent) (c : ErrCode) (w : Word) (s : State) :
    raiseError c w (s.withBus b) = (raiseError c w s).withBus b := by
  unfold raiseError
  rw [apply_ite (State.withBus b)]
  rfl

theorem finish_withBus (b : List BusEvent) (i : Instr) (s : State) (r : Except ErrCode State) :
    finish i (s.withBus b) (State.withBus b <$> r) = Result.mapNext (State.withBus b) (finish i s r) := by
  cases r with
  | ok t => rfl
  | error c => exact congrArg _ (raiseError_withBus b c _ s)

/-- A command neither reads nor writes the accesses to come. -/
theorem exec_withBus (b : List BusEvent) (i : Instr) (s : State) :
    exec i (s.withBus b) = Result.mapNext (State.withBus b) (exec i s) := by
  cases i
  case nop | clearErr | softReset | setSeed | setAmFreq | noteOff => rfl
  case noteOn =>
    by_cases hq : s.vseq = 0xFFFFFFFFFFFFFFFF#64
    · rw [exec_noteOn_vseqEnd hq]
      exact exec_noteOn_vseqEnd hq
    · cases hp : placeVoice (newVoice s) (evictWhileFull s.maxv.toNat s.voices.length s.voices) with
      | none =>
        rw [exec_noteOn_noFree hq hp]
        exact exec_noteOn_noFree hq hp
      | some vs =>
        rw [exec_noteOn_placed hq hp]
        exact exec_noteOn_placed (s := s.withBus b) hq hp
  case pull =>
    cases hc : cyclic s.templates with
    | true =>
      rw [exec_pull_cyclic hc]
      exact exec_pull_cyclic hc
    | false =>
      rw [exec_pull_acyclic hc]
      exact exec_pull_acyclic (s := s.withBus b) hc
  -- The others check their fields and then answer one changed state.
  all_goals
    refine Eq.trans ?_ (finish_withBus b _ s _)
    simp only [map_bind, map_pure]
    rfl

theorem runCommand_withBus (b : List BusEvent) (w : Word) (s : State) :
    runCommand w (s.withBus b) = Result.mapNext (State.withBus b) (runCommand w s) := by
  cases hw : decode w with
  | error e =>
    rw [runCommand_of_decode_error hw, runCommand_of_decode_error hw, raiseError_withBus]
    rfl
  | ok i => rw [runCommand_of_decode hw, runCommand_of_decode hw, exec_withBus]

theorem writeRegister_withBus (b : List BusEvent) (a : Addr) (v : Word) (s : State) :
    writeRegister (s.withBus b) a v = (writeRegister s a v).withBus b := by
  simp only [writeRegister, apply_ite (State.withBus b)]
  rfl

/-- A bus event neither reads nor writes the accesses to come. -/
theorem busEvent_withBus (b : List BusEvent) (e : BusEvent) (s : State) :
    busEvent e (s.withBus b) = Result.mapNext (State.withBus b) (busEvent e s) := by
  cases e with
  | rst => rfl
  | read a size =>
    cases hdef : accessDefined a size with
    | false =>
      rw [busEvent_read_undefined hdef, busEvent_read_undefined hdef]
      rfl
    | true =>
      obtain ⟨rfl, ha⟩ := accessDefined_eq_true.1 hdef
      rw [busEvent_read ha, busEvent_read ha]
      rfl
  | write a size v =>
    cases hdef : accessDefined a size with
    | false =>
      rw [busEvent_write_undefined hdef, busEvent_write_undefined hdef]
      rfl
    | true =>
      obtain ⟨rfl, ha⟩ := accessDefined_eq_true.1 hdef
      by_cases hcmd : a = cmdAddr
      · rw [hcmd, busEvent_write_cmd, busEvent_write_cmd]
        exact runCommand_withBus b v { s with resp := .writeDone }
      · rw [busEvent_write ha hcmd, busEvent_write ha hcmd, writeRegister_withBus]
        rfl

/-- As many steps as there are accesses to come run exactly those: what an event does is the same with the rest of the
accesses on the bus and with none. -/
theorem run_withBus (es : List BusEvent) (s : State) :
    (Host.Core.run core es.length (s.withBus es) : Result) = runBus es (s.withBus []) := by
  induction es generalizing s with
  | nil => rfl
  | cons e es ih =>
    have hstep : core.step (s.withBus (e :: es)) = busEvent e (s.withBus es) := rfl
    simp only [List.length_cons, Host.Core.run, runBus, hstep, busEvent_withBus]
    cases busEvent e s with
    | next t => exact ih t
    | fault r => rfl
    | refused r => rfl

/-- Settles O13: the runs over the two parts of a list, and the steps over a whole list. -/
theorem accessesRunInOrder : Obligations.AccessesRunInOrder :=
  ⟨fun _ rest _ _ h => runBus_append h rest, fun es s _ h => (run_withBus es s).trans h⟩

end Sys2Proof.Machine
end

section
/-! SUPPORT. The bus writes of an assembly line, by one host and by two (30_encoding.md R101; 70_reset_and_hazards.md R307). -/

namespace Sys2Proof.Machine

/-- The write of an encoded command to CMD runs the command. -/
theorem busEvent_write_encode (i : Instr) (s : State) :
    busEvent (.write cmdAddr 4 (encode i)) s = exec i { s with resp := .writeDone } := by
  rw [busEvent_write_cmd, runCommand_of_decode (decode_encode i)]

/-- The operand of a line in its registers: ARG0 for u32 and mask, ARG0 and ARG1 for f64 (R92). -/
def AsmOperand.load : AsmOperand → State → State
  | .absent, s => s
  | .u32 v, s => { s with arg0 := v }
  | .f64 x, s => { s with arg0 := x.extractLsb' 0 32, arg1 := x.extractLsb' 32 32 }
  | .mask m, s => { s with arg0 := m.setWidth 32 }

theorem runBus_operandWrites (o : AsmOperand) (s : State) :
    ∃ r, runBus (operandWrites o) s = .next { o.load s with resp := r } := by
  cases o <;> exact ⟨_, rfl⟩

/-- A line loads its operand and runs its command (R101). -/
theorem runBus_asmLine (i : Instr) (o : AsmOperand) (s : State) :
    runBus (asmLine i o) s = exec i { o.load s with resp := .writeDone } := by
  obtain ⟨r, hr⟩ := runBus_operandWrites o s
  rw [asmLine, runBus_append hr, runBus_singleton, busEvent_write_encode]

/-- Settles O15: one clause for each form of operand. -/
theorem assemblyLineRunsItsCommand : Obligations.AssemblyLineRunsItsCommand := by
  refine fun i s => ⟨runBus_asmLine i .absent s, fun v => runBus_asmLine i (.u32 v) s,
    fun x => runBus_asmLine i (.f64 x) s, fun m => ?_⟩
  rw [BitVec.ofNat_toNat]
  exact runBus_asmLine i (.mask m) s

/-- Settles O14: the hosts' lines one after the other, and host 2's line between the two writes of host 1's. -/
theorem hostsCanMixOperands : Obligations.HostsCanMixOperands := by
  refine ⟨asmLine .noteOn (.u32 1#32) ++ asmLine .noteOn (.u32 2#32),
    .write arg0Addr 4 1#32 :: asmLine .noteOn (.u32 2#32) ++ [.write cmdAddr 4 (encode .noteOn)],
    _, _, ?_, ?_, rfl, rfl, by decide, by decide⟩
  · exact .next (before := []) <| .next (before := []) <| .next (before := [[]]) <| .next (before := [[]]) <|
      .done (by simp)
  · exact .next (before := []) <| .next (before := [_]) <| .next (before := [_]) <| .next (before := []) <|
      .done (by simp)

end Sys2Proof.Machine
end

section
/-! SUPPORT. A command word by its OP (30_encoding.md R94 to R97): unlisted, listed with illegal fields, or a well-formed
command. -/

namespace Sys2Proof.Machine

/-! ### The rows of R96 and the tables of the statements -/

/-- An OP has a row exactly when it lies in the listed ranges. -/
theorem find?_opcodeMap_isSome (op : Byte) : (opcodeMap.find? fun r => r.op == op).isSome = opListed op.toNat := by
  rw [Bool.eq_iff_iff, List.find?_isSome]
  simp [opcodeMap, systemRows, slotRows, voiceRows, opListed, BitVec.toNat_eq]
  omega

theorem opcodeMap_usedFields : ∀ r ∈ opcodeMap,
    (opTakesSlot r.op.toNat = r.usesK) ∧ (opSubValues r.op.toNat = 1 ↔ r.usesS = false) := by
  decide

/-- RSV is 0, and so is each field the command does not use (R94). -/
def UnusedFieldsZero (w : Word) : Prop :=
  rsvField w = 0#16 ∧ (opTakesSlot (opField w).toNat = false → kField w = 0#4) ∧
    (opSubValues (opField w).toNat = 1 → sField w = 0#4)

/-! ### What the decoder answers -/

theorem decode_of_unlisted {w : Word} (h : opListed (opField w).toNat = false) : decode w = .error .illegalOpcode := by
  rw [← find?_opcodeMap_isSome, Option.isSome_eq_false_iff, Option.isNone_iff_eq_none] at h
  simp only [decode, h]

/-- The decoder's answer for a listed OP turns on the unused fields alone. -/
theorem decode_of_listed {w : Word} (h : opListed (opField w).toNat = true) :
    (UnusedFieldsZero w ∧ ∃ i, decode w = .ok i) ∨ (¬ UnusedFieldsZero w ∧ decode w = .error .reservedField) := by
  rw [← find?_opcodeMap_isSome] at h
  obtain ⟨r, hr⟩ := Option.isSome_iff_exists.1 h
  have hop : r.op = opField w := eq_of_beq (List.find?_some hr :)
  obtain ⟨hK, hS⟩ := opcodeMap_usedFields r (List.mem_of_find?_eq_some hr)
  rw [hop] at hK hS
  simp only [UnusedFieldsZero, hK, hS, decode, hr]
  split_ifs with hrsv hk hsub
  · exact .inr ⟨fun ⟨hz, _, _⟩ => hrsv hz, rfl⟩
  · exact .inr ⟨fun ⟨_, hz, _⟩ => hk.2 (hz hk.1), rfl⟩
  · exact .inr ⟨fun ⟨_, _, hz⟩ => hsub.2 (hz hsub.1), rfl⟩
  · exact .inl ⟨⟨not_not.1 hrsv, fun hu => not_not.1 fun h0 => hk ⟨hu, h0⟩,
      fun hu => not_not.1 fun h0 => hsub ⟨hu, h0⟩⟩, _, rfl⟩

theorem decode_eq_illegalOpcode_iff {w : Word} : decode w = .error .illegalOpcode ↔ opListed (opField w).toNat = false := by
  cases hl : opListed (opField w).toNat
  · simp [decode_of_unlisted hl]
  · rcases decode_of_listed hl with ⟨-, i, hi⟩ | ⟨-, he⟩
    · simp [hi]
    · simp [he]

/-- A word decodes exactly when its OP is listed and RSV and the unused fields are 0. -/
theorem exists_decode_eq_ok_iff {w : Word} :
    (∃ i, decode w = .ok i) ↔ opListed (opField w).toNat = true ∧ UnusedFieldsZero w := by
  cases hl : opListed (opField w).toNat
  · simp [decode_of_unlisted hl]
  · rcases decode_of_listed hl with ⟨hz, i, hi⟩ | ⟨hnz, he⟩
    · simp [hi, hz]
    · simp [he, hnz]

/-- `wellFormed` in the fields of the command's word: S below the command's number of values, a used K a slot (R94). -/
theorem wellFormed_iff {i : Instr} :
    i.wellFormed = true ↔
      (sField (encode i)).toNat < opSubValues (opField (encode i)).toNat ∧
        (opTakesSlot (opField (encode i)).toNat = true → (kField (encode i)).toNat < 4) := by
  cases i <;>
    simp [encode, Instr.wellFormed, slotLegal, flagLegal, threeLegal, presetLegal, opSubValues, opTakesSlot, and_comm]

/-! ### The field checks of a decoded command -/

/-- The first check that fails decides the error. -/
theorem finish_bind_error {α : Type} {i : Instr} {s : State} {c : ErrCode} {x : Except ErrCode α}
    {f : α → Except ErrCode State} (hx : x = .error c) : finish i s (x >>= f) = .next (raiseError c (encode i) s) := by
  rw [hx, error_bind, finish_error]

/-- A check that passes leaves the error to the next one. -/
theorem finish_bind_bind_error {α β : Type} {i : Instr} {s : State} {c : ErrCode} {x : Except ErrCode α}
    {y : Except ErrCode β} {f : α → β → Except ErrCode State} (hx : ∃ a, x = .ok a) (hy : y = .error c) :
    finish i s (x >>= fun a => y >>= f a) = .next (raiseError c (encode i) s) := by
  obtain ⟨a, rfl⟩ := hx
  rw [ok_bind, finish_bind_error hy]

theorem waveOperand_good : ∀ sub : BitVec 4, sub.toNat < 3 → ∃ w, waveOperand sub = .ok w := by
  intro sub h
  have : sub = 0#4 ∨ sub = 1#4 ∨ sub = 2#4 := by revert sub; decide
  rcases this with rfl | rfl | rfl <;> exact ⟨_, rfl⟩

theorem flagOperand_good : ∀ sub : BitVec 4, sub.toNat < 2 → ∃ f, flagOperand sub = .ok f := by
  intro sub h
  have : sub = 0#4 ∨ sub = 1#4 := by revert sub; decide
  rcases this with rfl | rfl <;> exact ⟨_, rfl⟩

/-- S is checked before any other operand (R273); a command without S defines the value 0 alone. -/
theorem exec_of_subIllegal {i : Instr} (h : opSubValues (opField (encode i)).toNat ≤ (sField (encode i)).toNat) (s : State) :
    exec i s = .next (raiseError .reservedField (encode i) s) := by
  cases i
  case setIrqEn | setFixed | setDisabled | setPresent | setAmEnable =>
    exact finish_bind_error (flagOperand_bad _ (by simpa [encode, opSubValues] using h))
  case setWave | setAmWave => exact finish_bind_error (waveOperand_bad _ (by simpa [encode, opSubValues] using h))
  case applyPreset => exact finish_bind_error (presetOperand_bad _ (by simpa [encode, opSubValues] using h))
  case setPass => exact finish_bind_error (filterOperand_bad _ (by simpa [encode, opSubValues] using h))
  all_goals simp [encode, opSubValues] at h

/-- K is checked next (R273). -/
theorem exec_of_slotIllegal {i : Instr} (hsub : (sField (encode i)).toNat < opSubValues (opField (encode i)).toNat)
    (hslot : opTakesSlot (opField (encode i)).toNat = true) (hk : 4 ≤ (kField (encode i)).toNat) (s : State) :
    exec i s = .next (raiseError .badSlot (encode i) s) := by
  cases i
  case setFixed | setDisabled | setPresent =>
    exact finish_bind_bind_error (flagOperand_good _ (by simpa [encode, opSubValues] using hsub))
      (slotOperand_bad _ (by simpa [encode] using hk))
  case setWave =>
    exact finish_bind_bind_error (waveOperand_good _ (by simpa [encode, opSubValues] using hsub))
      (slotOperand_bad _ (by simpa [encode] using hk))
  case setFreq | setRatio | setAmp | setTargets | setAttack | setDecay | setSustain | setRelease | setAtarget | setDrtarget =>
    exact finish_bind_error (slotOperand_bad _ (by simpa [encode] using hk))
  all_goals simp [encode, opTakesSlot] at hslot

/-! ### The statements -/

/-- Settles O1: the encoder's word carries every field of the command. -/
theorem decodeOfEncode : Obligations.DecodeOfEncode := decode_encode

/-- Settles O2: a decoded word is made of OP, K and S, the rest being 0. -/
theorem encodeOfDecode : Obligations.EncodeOfDecode := fun _ _ => encode_of_decode

/-- Settles O3: each pattern is the word of its command. -/
theorem sampleWordsDecode : Obligations.SampleWordsDecode :=
  ⟨decode_encode (.setWave 1#4 1#4), decode_encode (.setRelease 3#4), decode_encode (.applyPreset 3#4),
    decode_encode (.setPass 2#4), decode_encode .noteOn, decode_encode .pull⟩

/-- Settles O4: the ranges are unlisted, and the decoder refuses exactly the unlisted OPs as illegal. -/
theorem illegalOpcodesAreRaised : Obligations.IllegalOpcodesAreRaised := by
  unfold Obligations.IllegalOpcodesAreRaised
  simp only [← opField_toNat]
  refine fun w s => ⟨fun hrange => ?_, decode_eq_illegalOpcode_iff.1⟩
  have hl : opListed (opField w).toNat = false := by simp [opListed]; omega
  exact runCommand_of_decode_error (decode_of_unlisted hl) s

/-- Settles O5: the decoder checks RSV and the unused fields, the command then S and then K. -/
theorem fieldChecksAreRaised : Obligations.FieldChecksAreRaised := by
  unfold Obligations.FieldChecksAreRaised
  simp only [← opField_toNat, ← kField_toNat, ← sField_toNat, ← rsvField_toNat]
  intro w s hl
  rcases decode_of_listed hl with ⟨⟨hrsv, hk, hsub⟩, i, hi⟩ | ⟨hnz, he⟩
  · rw [runCommand_of_decode hi]
    obtain rfl := encode_of_decode hi
    refine ⟨fun h => exec_of_subIllegal ?_ s, fun ⟨_, hs, ht, h4⟩ => exec_of_slotIllegal hs ht h4 s⟩
    rcases h with h | ⟨ht, h⟩ | h
    · simp [hrsv] at h
    · simp [hk ht] at h
    · exact h
  · refine ⟨fun _ => runCommand_of_decode_error he s, fun ⟨hrsv, hs, ht, _⟩ => absurd ?_ hnz⟩
    refine ⟨BitVec.eq_of_toNat_eq hrsv, fun hf => ?_, fun h1 => ?_⟩
    · cases ht.symm.trans hf
    · exact BitVec.eq_of_toNat_eq (by simpa [h1] using hs)

/-- Settles O6: the decoder leaves the ranges of used fields to `wellFormed`. -/
theorem legalWordsAreWellFormedCommands : Obligations.LegalWordsAreWellFormedCommands := by
  unfold Obligations.LegalWordsAreWellFormedCommands
  simp only [← opField_toNat, ← kField_toNat, ← sField_toNat, ← rsvField_toNat]
  intro w
  constructor
  · rintro ⟨i, hi, hwf⟩
    obtain ⟨hl, hrsv, hk, -⟩ := exists_decode_eq_ok_iff.1 ⟨i, hi⟩
    rw [wellFormed_iff, encode_of_decode hi] at hwf
    refine ⟨hl, by simp [hrsv], hwf.1, ?_⟩
    split_ifs with ht
    · exact hwf.2 ht
    · simp [hk (by simpa using ht)]
  · rintro ⟨hl, hrsv, hs, hk⟩
    obtain ⟨i, hi⟩ := exists_decode_eq_ok_iff.2 ⟨hl, BitVec.eq_of_toNat_eq hrsv,
      fun ht => BitVec.eq_of_toNat_eq (by simpa [ht] using hk), fun h1 => BitVec.eq_of_toNat_eq (by simpa [h1] using hs)⟩
    refine ⟨i, hi, ?_⟩
    rw [wellFormed_iff, encode_of_decode hi]
    exact ⟨hs, fun ht => by simpa [ht] using hk⟩

end Sys2Proof.Machine
end

section
/-! SUPPORT. Commands whose operands pass their checks (40_oscillators.md R125 to R130; 42_envelope.md R185 to R188), and the
operands in [0.0, 1.0] (60_exceptions.md R272). -/

namespace Sys2Proof.Machine

/-! ### Checks that pass -/

theorem finish_bind_ok {α : Type} {i : Instr} {s : State} {a : α} {x : Except ErrCode α}
    {f : α → Except ErrCode State} (hx : x = .ok a) : finish i s (x >>= f) = finish i s (f a) := by
  rw [hx, ok_bind]

/-- A command whose last check is its slot ends with that slot's template changed. -/
theorem finish_slotOperand (i : Instr) (s : State) (f : Template → Template) (j : Slot) :
    finish i s (slotOperand (slotCode j) >>= fun k => pure (updateTemplate k f s)) = .next (updateTemplate j f s) :=
  finish_bind_ok (slotOperand_code j)

/-- Settles O22: S, where there is one, and K are codes, and the command changes one template. -/
theorem slotCommandsSetTheirField : Obligations.SlotCommandsSetTheirField := by
  intro j s
  refine ⟨fun w => ?_, fun f => ?_, fun f => ?_, ?_, ?_, ?_, ?_, ?_⟩
  · exact (finish_bind_ok (waveOperand_code w)).trans (finish_slotOperand _ s _ j)
  · exact (finish_bind_ok (flagOperand_code f)).trans (finish_slotOperand _ s _ j)
  · exact (finish_bind_ok (flagOperand_code f)).trans (finish_slotOperand _ s _ j)
  all_goals exact finish_slotOperand _ s _ j

/-! ### The encodings of [0.0, 1.0] -/

theorem fIsNaN_eq_false_iff (x : F64) : fIsNaN x = false ↔ fMagField x ≤ 2047 * 2 ^ 52 := by
  have : fMagField x < 2 ^ 63 := Nat.mod_lt _ (by decide)
  rw [fIsNaN, Bool.and_eq_false_iff, beq_eq_false_iff_ne, bne_eq_false_iff_eq, fExpField_eq, fFracField_eq]
  omega

theorem fLe_eq_true_iff (x y : F64) :
    fLe x y = true ↔ fMagField x ≤ 2047 * 2 ^ 52 ∧ fMagField y ≤ 2047 * 2 ^ 52 ∧ fKey x ≤ fKey y := by
  simp only [fLe, Bool.and_eq_true, Bool.not_eq_true', fIsNaN_eq_false_iff, decide_eq_true_eq, and_assoc]

/-- An encoding without the sign bit is its own order key. -/
theorem fKey_of_lt {x : F64} (h : x.toNat < 2 ^ 63) : fKey x = x.toNat := by
  have hsign : fSign x = false := by rw [fSign_eq]; exact decide_eq_false (by omega)
  rw [fKey, hsign, if_neg Bool.false_ne_true, fMagField, Nat.mod_eq_of_lt h]

theorem fKey_of_ge {x : F64} (h : 2 ^ 63 ≤ x.toNat) : fKey x = 2 ^ 63 - x.toNat := by
  have hx := x.isLt
  have hsign : fSign x = true := by rw [fSign_eq]; exact decide_eq_true h
  rw [fKey, hsign, if_pos rfl, fMagField]
  omega

/-- The encodings of [0.0, 1.0]: those of +0.0 to 1.0, and of -0.0 (R272). -/
theorem inUnitRange_iff (x : F64) :
    inUnitRange x = true ↔ x.toNat ≤ 0x3FF0000000000000 ∨ x.toNat = 0x8000000000000000 := by
  have hmag : fMagField x = x.toNat % 2 ^ 63 := rfl
  have hkey0 : fKey fZero = 0 := by decide
  have hkey1 : fKey fOne = 0x3FF0000000000000 := by decide
  have hmag0 : fMagField fZero = 0 := by decide
  have hmag1 : fMagField fOne = 0x3FF0000000000000 := by decide
  rw [inUnitRange, Bool.and_eq_true, fLe_eq_true_iff, fLe_eq_true_iff, hkey0, hkey1, hmag0, hmag1, hmag]
  rcases Nat.lt_or_ge x.toNat (2 ^ 63) with hpos | hneg
  · rw [fKey_of_lt hpos]
    omega
  · rw [fKey_of_ge hneg]
    omega

/-! ### The commands that take an operand in [0.0, 1.0] -/

theorem operandUnit_of_inUnitRange {s : State} (h : inUnitRange (operandF64 s) = true) :
    operandUnit s = .ok (operandF64 s) := if_pos h

theorem operandUnit_of_not_inUnitRange {s : State} (h : ¬ inUnitRange (operandF64 s) = true) :
    operandUnit s = .error .badValue := if_neg h

theorem exec_setAmp (j : Slot) (s : State) :
    exec (.setAmp (slotCode j)) s = finish (.setAmp (slotCode j)) s
      (operandUnit s >>= fun x => pure (updateTemplate j (fun t => { t with amp := x }) s)) :=
  finish_bind_ok (slotOperand_code j)

theorem exec_setSustain (j : Slot) (s : State) :
    exec (.setSustain (slotCode j)) s = finish (.setSustain (slotCode j)) s
      (operandUnit s >>= fun x => pure (updateTemplate j (fun t => { t with sus := x }) s)) :=
  finish_bind_ok (slotOperand_code j)

/-- Settles O23: the slot is a code, so each of the three commands ends as the check of its operand does. -/
theorem unitRangeCommands : Obligations.UnitRangeCommands := by
  rintro j s x rfl
  rw [← inUnitRange_iff, exec_setAmp, exec_setSustain]
  constructor
  · intro h
    have hx := operandUnit_of_inUnitRange h
    exact ⟨finish_bind_ok hx, finish_bind_ok hx, finish_bind_ok hx⟩
  · intro h
    have hx := operandUnit_of_not_inUnitRange h
    exact ⟨finish_bind_error hx, finish_bind_error hx, finish_bind_error hx⟩

end Sys2Proof.Machine
end

section
/-! SUPPORT. Noise generators in numbers (40_oscillators.md R117, R118): the shifts of a step, the seed, and a noise sample,
which is exact because every value on the way to it is a binary64 value. -/

namespace Sys2Proof.Machine

/-! ### Exact results of binary64 operations -/

/-- `v` (in units of 2^-1074) is the value of a finite binary64 encoding. -/
def Representable (v : Int) : Prop := ∃ z : F64, fIsFinite z = true ∧ fInt z = v

/-- A significand of 53 bits at an exponent in range is a binary64 value. -/
theorem representable_mul_two_pow {v : Int} {e : Nat} (hv : v.natAbs < 2 ^ 53) (he : e ≤ 2045) :
    Representable (v * 2 ^ e) := by
  have hsh : roundShift (v.natAbs * 2 ^ e) ≤ e := roundShift_le (Nat.mul_lt_mul_of_pos_right hv (Nat.two_pow_pos e))
  obtain ⟨hlt, hnorm⟩ := roundShift_quotient (v.natAbs * 2 ^ e) 1
  rw [Nat.div_one, Nat.one_mul] at hlt hnorm
  generalize roundShift (v.natAbs * 2 ^ e) = sh at *
  have hdvd : v.natAbs * 2 ^ e / 2 ^ sh * 2 ^ sh = v.natAbs * 2 ^ e :=
    Nat.div_mul_cancel (dvd_mul_of_dvd_right (Nat.pow_dvd_pow 2 hsh) _)
  have henc : sh * 2 ^ 52 + v.natAbs * 2 ^ e / 2 ^ sh < 2047 * 2 ^ 52 := by omega
  have hbits := henc.trans (by decide : 2047 * 2 ^ 52 < 2 ^ 63)
  refine ⟨fPack (decide (v < 0)) (sh * 2 ^ 52 + v.natAbs * 2 ^ e / 2 ^ sh), ?_, ?_⟩
  · rw [fIsFinite_iff, fMagField_fPack _ hbits]
    exact henc
  · rw [fInt_eq_signed, fSign_fPack _ hbits, fMag_fPack _ ⟨hlt.le, hnorm⟩ hbits, hdvd, signed_mul_natCast,
      signed_natAbs, Nat.cast_pow, Nat.cast_ofNat]

theorem fMag_le_maxFinite {z : F64} (hz : fIsFinite z = true) : fMag z ≤ fMag fMaxFinite := by
  rw [fIsFinite_iff] at hz
  have hexp : fExpField z ≤ 2046 := by rw [fExpField_eq]; omega
  have hfrac : fFracField z < 2 ^ 52 := Nat.mod_lt _ (by decide)
  rw [fMag_fMaxFinite, fMag]
  split
  · have hsub : fFracField z ≤ 2 ^ 53 - 1 := by omega
    exact hsub.trans (Nat.le_mul_of_pos_right _ (pow_pos two_pos _))
  · exact Nat.mul_le_mul (by omega) (pow_le_pow_right₀ one_le_two (by omega))

/-- A result whose exact value is a binary64 value is that value. -/
theorem RoundsTo.exact {num : Int} {den : Nat} {r : F64} (h : RoundsTo num den r) (hden : 0 < den) {v : Int}
    (hv : Representable v) (hnum : num = v * den) : fIsFinite r = true ∧ fInt r = v := by
  obtain ⟨z, hz, rfl⟩ := hv
  subst hnum
  obtain ⟨hrange, hnear⟩ := h
  have hfin : fIsFinite r = true := hrange (by
    rw [Int.natAbs_mul, Int.natAbs_natCast, fInt_eq_signed, natAbs_signed]
    exact Nat.mul_le_mul_right den (fMag_le_maxFinite hz))
  have hdist : (fInt r * den - fInt z * den).natAbs = 0 := by
    simpa using (hnear hfin z hz).1
  have hmul : fInt r * den = fInt z * den := by omega
  exact ⟨hfin, mul_right_cancel₀ (by exact_mod_cast hden.ne') hmul⟩

/-! ### A noise sample -/

theorem fInt_fOfWord (x : Word) : fIsFinite (fOfWord x) = true ∧ fInt (fOfWord x) = x.toNat * 2 ^ 1074 := by
  obtain ⟨-, hof⟩ := additionRoundsToNearest
  have hlt := x.isLt
  exact (hof x.toNat).exact Nat.one_pos (representable_mul_two_pow (by omega) (by decide)) (Int.mul_one _).symm

theorem fInt_fMul_fOfWord (x : Word) :
    fIsFinite (fMul (fOfWord x) fTwoPowMinus31) = true ∧
      fInt (fMul (fOfWord x) fTwoPowMinus31) = x.toNat * 2 ^ 1043 := by
  obtain ⟨hfin, hval⟩ := fInt_fOfWord x
  obtain ⟨hmul, -⟩ := multiplicationAndDivisionRoundToNearest (fOfWord x) fTwoPowMinus31 hfin (by decide)
  have hpow : fInt fTwoPowMinus31 = 2 ^ 1043 := by decide +kernel
  have hlt := x.isLt
  refine hmul.exact (pow_pos two_pos _) (representable_mul_two_pow (by omega) (by decide)) ?_
  rw [hval, hpow, Nat.cast_pow, Nat.cast_ofNat, mul_right_comm]

/-- `x * 2^-31 - 1` needs 32 bits at most, so it is exact. -/
theorem fInt_noiseSample (x : Word) :
    fIsFinite (noiseSample x) = true ∧ fInt (noiseSample x) = ((x.toNat : Int) - 2 ^ 31) * 2 ^ 1043 := by
  obtain ⟨hfin, hval⟩ := fInt_fMul_fOfWord x
  obtain ⟨-, hsub⟩ := additionRoundsToNearest.1 (fMul (fOfWord x) fTwoPowMinus31) fOne hfin (by decide)
  have hone : fInt fOne = 2 ^ 31 * 2 ^ 1043 := by decide +kernel
  have hlt := x.isLt
  refine hsub.exact Nat.one_pos (representable_mul_two_pow (by omega) (by decide)) ?_
  rw [hval, hone, ← sub_mul, Nat.cast_one, mul_one]

/-! ### The step and the seed -/

theorem shiftLeft_eq_ofNat {w : Nat} (x : BitVec w) (k : Nat) : x <<< k = BitVec.ofNat w (x.toNat * 2 ^ k % 2 ^ w) := by
  apply BitVec.eq_of_toNat_eq
  simp [Nat.shiftLeft_eq]

theorem ushiftRight_eq_ofNat {w : Nat} (x : BitVec w) (k : Nat) : x >>> k = BitVec.ofNat w (x.toNat / 2 ^ k) := by
  rw [← Nat.shiftRight_eq_div_pow, ← BitVec.toNat_ushiftRight, BitVec.ofNat_toNat, BitVec.setWidth_eq]

/-- Settles O35: the shifts are products and quotients by powers of two. -/
theorem noiseGeneratorIsExact : Obligations.NoiseGeneratorIsExact := by
  refine ⟨fun x => ?_, fun x y h => noiseStep_injective h, fun x => noiseStep_ne_zero, fInt_noiseSample⟩
  simp only [noiseStep, shiftLeft_eq_ofNat, ushiftRight_eq_ofNat]

/-- Settles O36: every operation of the formula is modulo 2^32. -/
theorem noiseSeedFormula : Obligations.NoiseSeedFormula := by
  intro base seq g _ seed
  have hseed : (base + 0x9E3779B9#32 * (5#32 * seq.setWidth 32 + BitVec.ofNat 32 g + 1#32)).toNat = seed := by
    simp [seed, Nat.add_mod, Nat.mul_mod]
  simp only [noiseSeedFor, BitVec.toNat_eq, apply_ite BitVec.toNat, hseed]
  rfl

end Sys2Proof.Machine
end

section
/-! SUPPORT. One block of an oscillator, sample by sample, and the state it leaves (40_oscillators.md R112 to R123;
41_modulation_filters.md R153; 44_voice_mixer.md R233). -/

namespace Sys2Proof.Machine

/-! ### Phases and angles -/

/-- Bits 47:16 of the product, which fits 64 bits (R112). -/
theorem phaseIncrement_toNat (t : Template) (note : Word) :
    (phaseIncrement t note).toNat =
      if t.fixed then t.freq.toNat else note.toNat * t.ratio.toNat / 2 ^ 16 % 2 ^ 32 := by
  have hfit : note.toNat * t.ratio.toNat < 2 ^ 64 := (Nat.mul_lt_mul'' note.isLt t.ratio.isLt).trans_eq (by norm_num)
  rw [phaseIncrement, apply_ite BitVec.toNat, BitVec.extractLsb'_toNat, BitVec.toNat_mul,
    BitVec.toNat_setWidth_of_le (by decide), BitVec.toNat_setWidth_of_le (by decide), Nat.mod_eq_of_lt hfit,
    Nat.shiftRight_eq_div_pow]

theorem phaseAt_toNat (ph inc : Word) (i : Nat) : (phaseAt ph inc i).toNat = (ph.toNat + i * inc.toNat) % 2 ^ 32 := by
  simp [phaseAt]

theorem phaseBlock_getElem? (ph inc : Word) {n i : Nat} (hi : i < n) :
    (phaseBlock ph inc n)[i]? = some (phaseAt ph inc i) := by
  rw [phaseBlock, List.getElem?_map, List.getElem?_range hi, Option.map_some]

theorem phaseBlock_map_getElem? (f : Word → F64) (ph inc : Word) {n i : Nat} (hi : i < n) :
    ((phaseBlock ph inc n).map f)[i]? = some (f (phaseAt ph inc i)) := by
  rw [List.getElem?_map, phaseBlock_getElem? ph inc hi, Option.map_some]

/-- The angle of sample `i` (R113, R114). -/
theorem rad_phaseAt (ph inc : Word) (i : Nat) :
    rad (phaseAt ph inc i) = fMul fTwoPi (fMul (fOfNat ((ph.toNat + i * inc.toNat) % 2 ^ 32)) fTwoPowMinus32) := by
  rw [rad, fOfWord, phaseAt_toNat]

/-! ### Waveforms -/

theorem squareSample_eq (p : Word) : squareSample p = if p.toNat < 0x80000000 then fOne else fMinusOne := by
  rw [squareSample, ← BitVec.msb_eq_getLsbD_last, BitVec.msb_eq_decide]
  rcases Nat.lt_or_ge p.toNat 0x80000000 with hlow | hhigh
  · rw [decide_eq_false (Nat.not_le.2 hlow), if_neg Bool.false_ne_true, if_pos hlow]
  · rw [decide_eq_true hhigh, if_pos rfl, if_neg (Nat.not_lt.2 hhigh)]

theorem noiseBlock_getElem? {n i : Nat} (hi : i < n) (x : Word) :
    (noiseBlock n x).1[i]? = some (noiseSample (noiseStep^[i + 1] x)) := by
  induction n generalizing i x with
  | zero => exact absurd hi (Nat.not_lt_zero i)
  | succ n ih =>
    cases i with
    | zero => rfl
    | succ i => exact ih (Nat.lt_of_succ_lt_succ hi) (noiseStep x)

theorem noiseBlock_snd (n : Nat) (x : Word) : (noiseBlock n x).2 = noiseStep^[n] x := by
  induction n generalizing x with
  | zero => rfl
  | succ n ih => exact ih (noiseStep x)

/-- The generator steps once per sample of a noise waveform, and stays for the other two (R117, R121). -/
theorem waveBlock_snd (w : Waveform) (phases : List Word) (nz : Word) :
    (waveBlock w phases nz).2 = if w = .noise then noiseStep^[phases.length] nz else nz := by
  cases w with
  | sine => rfl
  | square => rfl
  | noise => exact noiseBlock_snd phases.length nz

/-- Settles O37: sines and squares are maps over the phases, and noise is a block of its generator. -/
theorem waveformSamples : Obligations.WaveformSamples := by
  intro ph inc nz n i hi p wave
  refine ⟨?sine, ?square, ?noise, rfl, rfl, ?state⟩
  case sine =>
    refine (phaseBlock_map_getElem? sineSample ph inc hi).trans ?_
    rw [sineSample, rad_phaseAt]
    rfl
  case square =>
    refine (phaseBlock_map_getElem? squareSample ph inc hi).trans ?_
    rw [squareSample_eq, phaseAt_toNat]
    rfl
  case noise => exact noiseBlock_getElem? (by rwa [phaseBlock_length]) nz
  case state => simp [wave, waveBlock_snd]

/-! ### A slot's outputs -/

theorem slotOscillator_angle (t : Template) (note : Word) (o : OscState) (e : Block) (n : Nat) :
    (slotOscillator t note o e n).angle = (phaseBlock o.ph (phaseIncrement t note) n).map rad := rfl

theorem slotOscillator_ph (t : Template) (note : Word) (o : OscState) (e : Block) (n : Nat) :
    (slotOscillator t note o e n).ph = phaseAt o.ph (phaseIncrement t note) n := rfl

theorem slotOscillator_nz (t : Template) (note : Word) (o : OscState) (e : Block) (n : Nat) :
    (slotOscillator t note o e n).nz =
      (waveBlock t.wave (phaseBlock o.ph (phaseIncrement t note) n) o.nz).2 := rfl

/-- An enabled slot's sample mode is its envelope times its waveform, its amplitude the envelope (R119, R120). -/
theorem slotOscillator_enabled (t : Template) (note : Word) (o : OscState) (e : Block) (n : Nat) :
    (slotOscillator { t with disabled := false } note o e n).sample =
        List.zipWith fMul e (waveBlock t.wave (phaseBlock o.ph (phaseIncrement t note) n) o.nz).1 ∧
      (slotOscillator { t with disabled := false } note o e n).ampl = e := ⟨rfl, rfl⟩

/-- Both outputs of a disabled slot are +0.0 (R122). -/
theorem slotOscillator_disabled (t : Template) (note : Word) (o : OscState) (e : Block) (n : Nat) :
    (slotOscillator { t with disabled := true } note o e n).sample = List.replicate n fZero ∧
      (slotOscillator { t with disabled := true } note o e n).ampl = List.replicate n fZero := ⟨rfl, rfl⟩

theorem slotOscillator_angle_getElem? (t : Template) (note : Word) (o : OscState) (e : Block) {n i : Nat} (hi : i < n) :
    (slotOscillator t note o e n).angle[i]? = some (fMul fTwoPi (fMul (fOfNat ((o.ph.toNat +
      i * if t.fixed then t.freq.toNat else note.toNat * t.ratio.toNat / 2 ^ 16 % 2 ^ 32) % 2 ^ 32)) fTwoPowMinus32)) := by
  rw [slotOscillator_angle, phaseBlock_map_getElem? rad _ _ hi, rad_phaseAt, phaseIncrement_toNat]

/-- Settles O38: DISABLED stands only in the sample mode and the amplitude, so the rest is the same for both. -/
theorem slotOutputsEnabledAndDisabled : Obligations.SlotOutputsEnabledAndDisabled := by
  intro t note o e n i ei hi he inc w off on
  obtain ⟨hon, honAmpl⟩ : on.sample = List.zipWith fMul e w ∧ on.ampl = e := slotOscillator_enabled t note o e n
  obtain ⟨hoff, hoffAmpl⟩ : off.sample = List.replicate n fZero ∧ off.ampl = List.replicate n fZero :=
    slotOscillator_disabled t note o e n
  have hzero : (List.replicate n fZero)[i]? = some 0#64 := List.getElem?_replicate_of_lt hi
  refine ⟨fun wi hwi => ?_, by simp [w], ?_, slotOscillator_angle_getElem? _ note o e hi, ?_, ?_, ?_, ?_, rfl, rfl, rfl⟩
  · rw [hon, List.getElem?_zipWith_eq_some]
    exact ⟨ei, wi, he, hwi, rfl⟩
  · rw [honAmpl, he]
  · rw [hoff, hzero]
  · rw [hoffAmpl, hzero]
  · rw [hoff, List.length_replicate]
  · rw [hoffAmpl, List.length_replicate]

/-! ### A voice after a block -/

/-- A slot after a block: phase and generator from its oscillator, stage and value from its envelope (R233). -/
theorem voiceBlock_osc_get (s : State) (v : Voice) (k : Slot) :
    let e := envelopeBlock (s.templates.get k) s.build.blockLen (v.osc.get k).est (v.osc.get k).env
    let o := slotOscillator (s.templates.get k) v.note (v.osc.get k) e.block s.build.blockLen
    (voiceBlock s v).2.osc.get k = ⟨o.ph, e.est, e.env, o.nz⟩ := by
  simp only [voiceBlock, voiceOscillators, voiceEnvelopes, Quad.get_ofFn]

theorem voiceBlock_amPh (s : State) (v : Voice) :
    (voiceBlock s v).2.amPh = phaseAt v.amPh s.tremolo.freq s.build.blockLen := rfl

theorem voiceBlock_amNz (s : State) (v : Voice) : (voiceBlock s v).2.amNz =
    (waveBlock s.tremolo.wave (phaseBlock v.amPh s.tremolo.freq s.build.blockLen) v.amNz).2 := rfl

theorem voiceBlock_fade (s : State) (v : Voice) :
    (voiceBlock s v).2.fade = fadeAfter s.build.fadeLen v.fade s.build.blockLen := rfl

theorem fadeAfter_toNat (len c0 : BitVec 16) (n : Nat) : (fadeAfter len c0 n).toNat = min (c0.toNat + n) len.toNat :=
  Nat.mod_eq_of_lt ((Nat.min_le_right _ _).trans_lt len.isLt)

/-- Settles O33: field by field, through what the oscillators, the envelope and the fade leave. -/
theorem voiceStateAfterBlock : Obligations.VoiceStateAfterBlock := by
  intro s v k t inc after e
  have hosc : after.osc.get k = ⟨_, e.est, e.env, _⟩ := voiceBlock_osc_get s v k
  have hfade : after.fade.toNat = min (v.fade.toNat + s.build.blockLen) s.build.fadeLen.toNat := by
    rw [voiceBlock_fade, fadeAfter_toNat]
  refine ⟨?phase, ?tremolo, ?noise, ?tremoloNoise, congrArg OscState.est hosc, congrArg OscState.env hosc,
    fun hle => ⟨hfade, by omega⟩, rfl, rfl⟩
  case phase => rw [hosc, slotOscillator_ph, phaseAt_toNat, phaseIncrement_toNat]
  case tremolo => rw [voiceBlock_amPh, phaseAt_toNat]
  case noise => rw [hosc, slotOscillator_nz, waveBlock_snd, phaseBlock_length]
  case tremoloNoise => rw [voiceBlock_amNz, waveBlock_snd, phaseBlock_length]

end Sys2Proof.Machine
end

section
/-! SUPPORT. The tremolo and pass-filter commands (41_modulation_filters.md R150, R151, R154 to R156; 60_exceptions.md
R272). -/

namespace Sys2Proof.Machine

/-- Settles O25: S, where there is one, is a code, and the command changes one field of the tremolo. -/
theorem tremoloCommandsSetTheirField : Obligations.TremoloCommandsSetTheirField :=
  fun _ => ⟨fun f => finish_bind_ok (flagOperand_code f), fun w => finish_bind_ok (waveOperand_code w), rfl⟩

theorem exec_setPass (ty : FilterType) (s : State) :
    exec (.setPass (filterCode ty)) s = finish (.setPass (filterCode ty)) s
      (require (ty == .none || cutoffLegal s.arg0) .badValue >>= fun _ =>
        pure { s with pass := passCoefficients s.pass ty s.arg0 }) :=
  finish_bind_ok (filterOperand_code ty)

/-- The cutoff is not checked without a filter (R151). -/
theorem exec_setPass_none (s : State) :
    exec (.setPass (filterCode .none)) s = .next { s with pass := { s.pass with type := .none } } :=
  exec_setPass .none s

theorem exec_setPass_of_cutoffLegal (ty : FilterType) {s : State} (h : cutoffLegal s.arg0 = true) :
    exec (.setPass (filterCode ty)) s = .next { s with pass := passCoefficients s.pass ty s.arg0 } := by
  rw [exec_setPass, h, Bool.or_true, finish_bind_ok (require_true _), pure_eq_ok, finish_ok]

theorem exec_setPass_of_cutoffIllegal {ty : FilterType} (hty : ty ≠ .none) {s : State} (h : cutoffLegal s.arg0 = false) :
    exec (.setPass (filterCode ty)) s = .next (raiseError .badValue (encode (.setPass (filterCode ty))) s) := by
  rw [exec_setPass, h, Bool.or_false, beq_eq_false_iff_ne.2 hty, finish_bind_error (require_false _)]

/-- Settles O26: S is a code, so only the cutoff is left to check, and `passCoefficients` is the rule's formula. -/
theorem setPassComputesCoefficients : Obligations.SetPassComputesCoefficients := by
  intro s kk t
  refine ⟨exec_setPass_none s, fun hlegal => ?_, fun hillegal => ?_⟩
  · have h : cutoffLegal s.arg0 = true := decide_eq_true hlegal
    exact ⟨exec_setPass_of_cutoffLegal .low h, exec_setPass_of_cutoffLegal .high h⟩
  · have h : cutoffLegal s.arg0 = false := decide_eq_false (by omega)
    exact ⟨exec_setPass_of_cutoffIllegal (ty := .low) nofun h, exec_setPass_of_cutoffIllegal (ty := .high) nofun h⟩

end Sys2Proof.Machine
end

section
/-! SUPPORT. Node outputs in an acyclic routing (43_routing.md R204 to R206): a slot has fewer ancestors than there are slots,
and each of its parents has fewer than the slot itself, so the depth bound of `nodeOutput` is never reached. -/

namespace Sys2Proof.Machine

@[simp] theorem mem_parents {ts : Quad Template} {p k : Slot} : p ∈ parents ts k ↔ edge ts p k = true := by
  simp [parents]

/-! ### Ancestors -/

/-- The slots from which slot `k` is reachable through one or more edges. -/
def ancestors (ts : Quad Template) (k : Slot) : Set Slot :=
  {a | Relation.TransGen (fun x y => edge ts x y = true) a k}

theorem finite_ancestors (ts : Quad Template) (k : Slot) : (ancestors ts k).Finite :=
  (List.finite_toSet Slot.all).subset fun a _ => Slot.mem_all a

theorem ancestors_ssubset_of_edge {ts : Quad Template} (h : Acyclic ts) {p k : Slot} (hpk : edge ts p k = true) :
    ancestors ts p ⊂ ancestors ts k := by
  refine ⟨fun a hap => Relation.TransGen.tail hap hpk, fun hsub => h p ?_⟩
  exact hsub (show p ∈ ancestors ts k from Relation.TransGen.single hpk)

theorem ncard_ancestors_lt_of_mem_parents {ts : Quad Template} (h : Acyclic ts) {p k : Slot} (hp : p ∈ parents ts k) :
    (ancestors ts p).ncard < (ancestors ts k).ncard :=
  Set.ncard_lt_ncard (ancestors_ssubset_of_edge h (mem_parents.1 hp)) (finite_ancestors ts k)

/-- A slot is no ancestor of itself, so three slots are left. -/
theorem ncard_ancestors_le {ts : Quad Template} (h : Acyclic ts) (k : Slot) : (ancestors ts k).ncard ≤ 3 := by
  have hsub : ancestors ts k ⊆ (Slot.all.toFinset.erase k : Finset Slot) := by
    intro a ha
    have hne : a ≠ k := fun hak => h k (hak ▸ ha)
    simp [hne]
  calc (ancestors ts k).ncard
      ≤ (Slot.all.toFinset.erase k).card := by
        rw [← Set.ncard_coe_finset]
        exact Set.ncard_le_ncard hsub (Finset.finite_toSet _)
    _ = 3 := by cases k <;> decide

/-! ### The recursion of R205 -/

theorem nodeOutput_of_no_parents {ts : Quad Template} {k : Slot} (h : parents ts k = []) (outs : Quad SlotOut)
    (depth : Nat) : nodeOutput ts outs depth k = (outs.get k).sample := by
  cases depth with
  | zero => rfl
  | succ depth => simp only [nodeOutput, h]

theorem nodeOutput_succ {ts : Quad Template} {k : Slot} (h : parents ts k ≠ []) (outs : Quad SlotOut) (depth : Nat) :
    nodeOutput ts outs (depth + 1) k =
      fmBlock (outs.get k) (modulator ((parents ts k).map (nodeOutput ts outs depth))) := by
  obtain ⟨p, ps, hps⟩ := List.exists_cons_of_ne_nil h
  simp only [nodeOutput, hps]

/-- A depth bound of as many slots as `k` has ancestors is enough. -/
theorem nodeOutput_succ_eq {ts : Quad Template} (h : Acyclic ts) (outs : Quad SlotOut) {depth : Nat} {k : Slot}
    (hk : (ancestors ts k).ncard ≤ depth) : nodeOutput ts outs (depth + 1) k = nodeOutput ts outs depth k := by
  induction depth generalizing k with
  | zero =>
    have hnone : parents ts k = [] := List.eq_nil_iff_forall_not_mem.2 fun p hp =>
      Nat.not_lt_zero _ ((ncard_ancestors_lt_of_mem_parents h hp).trans_le hk)
    rw [nodeOutput_of_no_parents hnone, nodeOutput_of_no_parents hnone]
  | succ depth ih =>
    by_cases hnone : parents ts k = []
    · rw [nodeOutput_of_no_parents hnone, nodeOutput_of_no_parents hnone]
    · have hparents : (parents ts k).map (nodeOutput ts outs (depth + 1)) =
          (parents ts k).map (nodeOutput ts outs depth) := List.map_congr_left fun p hp =>
        ih (Nat.le_of_lt_succ ((ncard_ancestors_lt_of_mem_parents h hp).trans_le hk))
      rw [nodeOutput_succ hnone, nodeOutput_succ hnone, hparents]

/-- Settles O31: a depth bound of 3 is enough for every parent. -/
theorem nodeOutputsFollowTheGraph : Obligations.NodeOutputsFollowTheGraph := by
  intro ts outs k h
  refine ⟨fun hnone => nodeOutput_of_no_parents hnone outs 4, fun hsome => ?_⟩
  have hparents : (parents ts k).map (nodeOutput ts outs 3) = (parents ts k).map (slotNode ts outs) :=
    List.map_congr_left fun p _ => (nodeOutput_succ_eq h outs (ncard_ancestors_le h p)).symm
  rw [slotNode, nodeOutput_succ hsome, hparents]

end Sys2Proof.Machine
end

section
/-! SUPPORT. Multiplying by 1.0 (41_modulation_filters.md R146, R153): rounding gives an encoding back from its value. -/

namespace Sys2Proof.Machine

theorem fPack_fSign_fMagField (x : F64) : fPack (fSign x) (fMagField x) = x := by
  apply BitVec.eq_of_toNat_eq
  have hx := x.isLt
  have hmag : fMagField x < 2 ^ 63 := Nat.mod_lt _ (by decide)
  rw [fPack_toNat _ hmag, fSign_eq, fMagField]
  simp only [decide_eq_true_eq]
  split <;> omega

/-! ### Rounding an exact value -/

theorem roundShift_mul_two_pow {sh m : Nat} (hm : m < 2 ^ 53) (hnorm : sh = 0 ∨ 2 ^ 52 ≤ m) :
    roundShift (m * 2 ^ sh) = sh := by
  refine (roundShift_le (Nat.mul_lt_mul_of_pos_right hm (Nat.two_pow_pos sh))).antisymm ?_
  rcases hnorm with rfl | hnorm
  · exact Nat.zero_le _
  · have hbig : 2 ^ (52 + sh) ≤ m * 2 ^ sh := by
      rw [Nat.pow_add]
      exact Nat.mul_le_mul_right _ hnorm
    have hlog : 52 + sh ≤ (m * 2 ^ sh).log2 := (Nat.le_log2 (by have := Nat.two_pow_pos (52 + sh); omega)).2 hbig
    unfold roundShift
    split
    · rename_i hsmall
      have := (Nat.pow_lt_pow_iff_right (by decide)).1 (hbig.trans_lt hsmall)
      omega
    · omega

theorem divRoundEven_mul_self (q : Nat) {d : Nat} (hd : 0 < d) : divRoundEven (q * d) d = q := by
  simp [divRoundEven, hd]

/-- A magnitude that is a significand under an exponent in range rounds to their encoding. -/
theorem roundMag_of_exact {sh m den : Nat} (hm : m < 2 ^ 53) (hnorm : sh = 0 ∨ 2 ^ 52 ≤ m)
    (hfin : sh * 2 ^ 52 + m < 2047 * 2 ^ 52) (hden : 0 < den) :
    roundMag (den * (m * 2 ^ sh)) den = sh * 2 ^ 52 + m := by
  have hdiv : divRoundEven (den * (m * 2 ^ sh)) (den * 2 ^ sh) = m := by
    rw [Nat.mul_left_comm]
    exact divRoundEven_mul_self m (Nat.mul_pos hden (Nat.two_pow_pos sh))
  simp only [roundMag, Nat.mul_div_cancel_left _ hden, roundShift_mul_two_pow hm hnorm, hdiv]
  exact Nat.min_eq_left hfin.le

/-- The value of a finite encoding rounds to that encoding, in any unit. -/
theorem roundMag_fMag {x : F64} (hx : fIsFinite x = true) {den : Nat} (hden : 0 < den) :
    roundMag (den * fMag x) den = fMagField x := by
  rw [fIsFinite_iff] at hx
  obtain ⟨sh, m, he, hm, hnorm⟩ : ∃ sh m, fMagField x = sh * 2 ^ 52 + m ∧ m < 2 ^ 53 ∧ (sh = 0 ∨ 2 ^ 52 ≤ m) :=
    ⟨fMagField x / 2 ^ 52 - 1, fMagField x - (fMagField x / 2 ^ 52 - 1) * 2 ^ 52, by omega, by omega, by omega⟩
  have hmag : fMag x = m * 2 ^ sh := by
    rw [← fMag_fPack (fSign x) ⟨hm.le, hnorm⟩ (by omega), ← he, fPack_fSign_fMagField]
  rw [hmag, he, roundMag_of_exact hm hnorm (he ▸ hx) hden]

/-! ### The factor 1.0 -/

theorem fMul_fOne_of_finite {x : F64} (hx : fIsFinite x = true) : fMul fOne x = x := by
  have hone : fMag fOne = 2 ^ 1074 := by decide +kernel
  rw [fMul_of_finite (by decide) hx, hone, roundMag_fMag hx (pow_pos two_pos _), show fSign fOne = false by decide,
    Bool.false_bne, fPack_fSign_fMagField]

theorem fMul_fOne_of_infinite {x : F64} (hx : fMagField x = 2047 * 2 ^ 52) : fMul fOne x = x := by
  have hnan : fIsNaN x = false := (fIsNaN_eq_false_iff x).2 hx.le
  have hinf : fIsInf x = true := by simp [fIsInf, fExpField_eq, fFracField_eq, hx]
  have hzero : fIsZero x = false := by simp [fIsZero, hx]
  calc fMul fOne x = fInf (fSign fOne != fSign x) := by
        simp [fMul, hnan, hinf, hzero, show fIsNaN fOne = false by decide, show fIsZero fOne = false by decide]
    _ = fPack (fSign x) (fMagField x) := by rw [show fSign fOne = false by decide, Bool.false_bne, fInf, hx]
    _ = x := fPack_fSign_fMagField x

theorem fMul_fOne {x : F64} (hx : fIsNaN x = false) : fMul fOne x = x := by
  by_cases hfin : fIsFinite x = true
  · exact fMul_fOne_of_finite hfin
  · rw [fIsFinite_iff] at hfin
    rw [fIsNaN_eq_false_iff] at hx
    exact fMul_fOne_of_infinite (by omega)

/-- Settles O41: a sum of one block only multiplies by `1.0 / 1`, which is 1.0. -/
theorem multiplyingByOneIsExact : Obligations.MultiplyingByOneIsExact := by
  refine ⟨fun x hx => fMul_fOne hx, fun b hb => ?_⟩
  have hgain : fDiv fOne (fOfNat 1) = fOne := by decide +kernel
  calc sumFilter [b] = b.map (fMul (fDiv fOne (fOfNat 1))) := rfl
    _ = b.map id := by
      rw [hgain]
      exact List.map_congr_left fun x hx => fMul_fOne (hb x hx)
    _ = b := List.map_id b

end Sys2Proof.Machine
end

section
/-! SUPPORT. The modulation and filter nodes, sample by sample (41_modulation_filters.md R141 to R148, R152). -/

namespace Sys2Proof.Machine

/-! ### SumFilter (R145) -/

/-- A sample of a sum of blocks is the sum of their samples, in the same order. -/
theorem foldl_zipWith_fAdd_getElem? {xs : List Block} {x : Block} {i : Nat} {a : F64} (hx : x[i]? = some a)
    (hxs : ∀ b ∈ xs, i < b.length) :
    (xs.foldl (List.zipWith fAdd) x)[i]? = some (xs.foldl (fun acc b => fAdd acc (b.getD i fZero)) a) := by
  induction xs generalizing x a with
  | nil => exact hx
  | cons y ys ih =>
    obtain ⟨hy, hys⟩ := List.forall_mem_cons.1 hxs
    refine ih ?_ hys
    rw [List.getElem?_zipWith_eq_some]
    exact ⟨a, y.getD i fZero, hx, by simp [hy], rfl⟩

/-- Settles O42: a sample of the sum, then the gain. -/
theorem sumFilterSamples : Obligations.SumFilterSamples := by
  intro x xs i hi hxs
  have hx : x[i]? = some (x.getD i fZero) := by simp [hi]
  have hlen : ∀ b ∈ xs, i < b.length := fun b hb => (hxs b hb).symm ▸ hi
  rw [sumFilter, List.getElem?_map, foldl_zipWith_fAdd_getElem? hx hlen]
  rfl

/-! ### PassFilter (R147, R148) -/

/-- The recurrence over two blocks in turn hands its memory on. -/
theorem passRecurrence_append (b0 b1 a1 : F64) (xs ys : Block) (z : F64) :
    let first := passRecurrence b0 b1 a1 xs z
    let second := passRecurrence b0 b1 a1 ys first.2
    passRecurrence b0 b1 a1 (xs ++ ys) z = (first.1 ++ second.1, second.2) := by
  induction xs generalizing z with
  | nil => rfl
  | cons x xs ih => simp only [List.cons_append, passRecurrence, ih]

theorem passNode_of_none {p : PassFilter} (hp : p.type = .none) (x : Block) (z : F64) : passNode p x z = (x, z) := by
  rw [passNode, hp]

theorem passNode_of_ne_none {p : PassFilter} (hp : p.type ≠ .none) (x : Block) (z : F64) :
    passNode p x z = passRecurrence p.b0 p.b1 p.a1 x z := by
  rw [passNode]
  split
  · exact absurd ‹_› hp
  · rfl
  · rfl

/-- Settles O43: one more sample is one more round of the recurrence, from the memory the block left. -/
theorem passFilterRecurrence : Obligations.PassFilterRecurrence := by
  refine fun p z => ⟨fun x hp => passNode_of_none hp x z, fun hp => ?_⟩
  simp only [passNode_of_ne_none hp]
  exact ⟨rfl, fun x a => passRecurrence_append p.b0 p.b1 p.a1 x [a] z⟩

/-! ### Tremolo, FM and anti-click (R141 to R143, R152) -/

theorem tremoloNode_getElem? {x am : Block} {i : Nat} {a b : F64} (hx : x[i]? = some a) (ham : am[i]? = some b) :
    (tremoloNode true x am)[i]? = some (fMul a (fAdd fOne b)) := by
  rw [tremoloNode, if_pos rfl, List.getElem?_zipWith_eq_some]
  exact ⟨a, b, hx, ham, rfl⟩

theorem fmBlock_getElem? {o : SlotOut} {m : Block} {i : Nat} {a th b : F64} (hampl : o.ampl[i]? = some a)
    (hangle : o.angle[i]? = some th) (hm : m[i]? = some b) :
    (fmBlock o m)[i]? = some (fMul a (Config.fnCos (fAdd th b))) := by
  have hsum : (List.zipWith fAdd o.angle m)[i]? = some (fAdd th b) :=
    List.getElem?_zipWith_eq_some.2 ⟨th, b, hangle, hm, rfl⟩
  rw [fmBlock, List.getElem?_zipWith_eq_some]
  exact ⟨a, _, hampl, by rw [List.getElem?_map, hsum, Option.map_some], rfl⟩

theorem fadeNode_zero (c0 : BitVec 16) (x : Block) : fadeNode 0#16 c0 x = x := if_pos rfl

theorem fadeNode_getElem? {len : BitVec 16} (hlen : len ≠ 0#16) (c0 : BitVec 16) {x : Block} {i : Nat} {a : F64}
    (hx : x[i]? = some a) : (fadeNode len c0 x)[i]? = some (fMul (fadeGain len (c0.toNat + i)) a) := by
  obtain ⟨hi, -⟩ := List.getElem?_eq_some_iff.1 hx
  rw [fadeNode, if_neg hlen, List.getElem?_zipWith_eq_some]
  exact ⟨i, a, List.getElem?_range hi, hx, rfl⟩

/-- Settles O44, one node after the other. -/
theorem tremoloFmAndFadeSamples : Obligations.TremoloFmAndFadeSamples :=
  ⟨fun _ _ _ _ _ hx ham => ⟨rfl, tremoloNode_getElem? hx ham⟩, fun _ _ _ _ _ _ => fmBlock_getElem?,
    fun x _ c0 _ _ hx => ⟨fadeNode_zero c0 x, fun hlen => fadeNode_getElem? hlen c0 hx⟩⟩

end Sys2Proof.Machine
end

section
/-! SUPPORT. One block of an envelope (42_envelope.md R171 to R179): the ramp, which stages are instantaneous, what a block
makes of each stage, and the order of the stages. -/

namespace Sys2Proof.Machine

/-! ### The recurrence of R176 -/

theorem rampBlock_getElem? (base m : F64) {n i : Nat} (hi : i < n) (env : F64) :
    (rampBlock base m n env).1[i]? = some ((fun e => fAdd base (fMul e m))^[i + 1] env) := by
  induction n generalizing i env with
  | zero => exact absurd hi (Nat.not_lt_zero i)
  | succ n ih =>
    cases i with
    | zero => rfl
    | succ i => exact ih (Nat.lt_of_succ_lt_succ hi) (fAdd base (fMul env m))

theorem rampBlock_snd (base m : F64) (n : Nat) (env : F64) :
    (rampBlock base m n env).2 = (fun e => fAdd base (fMul e m))^[n] env := by
  induction n generalizing env with
  | zero => rfl
  | succ n ih => exact ih (fAdd base (fMul env m))

/-- Settles O45: the samples and the last value, each by induction on the length of the block. -/
theorem envelopeRecurrence : Obligations.EnvelopeRecurrence :=
  fun base m env n _ => ⟨fun hi => rampBlock_getElem? base m hi env, rampBlock_snd base m n env⟩

/-! ### Instantaneous stages (R173) -/

/-- No other encoding compares equal to 1.0. -/
theorem fEq_fOne_iff (x : F64) : fEq x fOne = true ↔ x = fOne := by
  refine ⟨fun h => BitVec.eq_of_toNat_eq ?_, by rintro rfl; decide⟩
  have hkey : fKey x = 0x3FF0000000000000 := by
    simp only [fEq, Bool.and_eq_true, decide_eq_true_eq] at h
    exact h.2
  have hone : fOne.toNat = 0x3FF0000000000000 := rfl
  rcases Nat.lt_or_ge x.toNat (2 ^ 63) with hpos | hneg
  · rw [fKey_of_lt hpos] at hkey
    omega
  · rw [fKey_of_ge hneg] at hkey
    omega

theorem instantaneous_iff (t : Template) (len : Word) (target : F64) :
    instantaneous t len target = true ↔ len = 0#32 ∨ stageQuotient t target = fOne := by
  rw [instantaneous, Bool.or_eq_true, beq_iff_eq, fEq_fOne_iff]

theorem not_instantaneous {t : Template} {len : Word} {target : F64} (hlen : len ≠ 0#32)
    (hquot : stageQuotient t target ≠ fOne) : ¬ instantaneous t len target = true := by
  rw [instantaneous_iff]
  exact not_or.2 ⟨hlen, hquot⟩

/-! ### Step 1 of a block (R175), and the block by its stage -/

/-- DECAY and RELEASE are followed by a stage that holds. -/
theorem passOnce_passOnce (t : Template) {est : Stage} (hest : est ≠ .attack) (env : F64) :
    passOnce t (passOnce t (est, env)) = passOnce t (est, env) := by
  cases est with
  | attack => exact absurd rfl hest
  | decay => cases h : instantaneous t t.dec t.drtgt <;> simp [passOnce, h]
  | sustain => rfl
  | release => cases h : instantaneous t t.rel t.drtgt <;> simp [passOnce, h]
  | idle => rfl

theorem passThrough_of_ne_attack (t : Template) {est : Stage} (hest : est ≠ .attack) (env : F64) :
    passThrough t (est, env) = passOnce t (est, env) := by
  rw [passThrough, passOnce_passOnce t hest, passOnce_passOnce t hest]

/-- After an instantaneous ATTACK, the two rounds that are left do for DECAY what three do. -/
theorem passThrough_attack (t : Template) (env : F64) :
    passThrough t (.attack, env) =
      if instantaneous t t.att t.atgt then passThrough t (.decay, t.amp) else (.attack, env) := by
  by_cases h : instantaneous t t.att t.atgt = true
  · have hfirst : passOnce t (.attack, env) = (.decay, t.amp) := if_pos h
    have hsecond := passOnce_passOnce t (est := .decay) nofun t.amp
    rw [if_pos h, passThrough, passThrough, hfirst, hsecond, hsecond]
  · have hstay : passOnce t (.attack, env) = (.attack, env) := if_neg h
    rw [if_neg h, passThrough, hstay, hstay, hstay]

theorem envelopeBlock_attack (t : Template) (n : Nat) (env : F64) :
    envelopeBlock t n .attack env =
      if instantaneous t t.att t.atgt then envelopeBlock t n .decay t.amp else attackBlock t n env := by
  rw [envelopeBlock, passThrough_attack, apply_ite (stageBlock t n)]
  rfl

theorem envelopeBlock_decay (t : Template) (n : Nat) (env : F64) :
    envelopeBlock t n .decay env =
      if instantaneous t t.dec t.drtgt then ⟨List.replicate n (sustainLevel t), .sustain, sustainLevel t⟩
      else decayBlock t n env := by
  rw [envelopeBlock, passThrough_of_ne_attack t (est := .decay) nofun, passOnce, apply_ite (stageBlock t n)]
  rfl

theorem envelopeBlock_release (t : Template) (n : Nat) (env : F64) :
    envelopeBlock t n .release env =
      if instantaneous t t.rel t.drtgt then ⟨List.replicate n fZero, .idle, fZero⟩ else releaseBlock t n env := by
  rw [envelopeBlock, passThrough_of_ne_attack t (est := .release) nofun, passOnce, apply_ite (stageBlock t n)]
  rfl

/-- Settles O46: the block of a stage that is not instantaneous is that of its steps 2 and 3. -/
theorem envelopeStagesOfOneBlock : Obligations.EnvelopeStagesOfOneBlock :=
  fun t n env =>
    ⟨fun hlen hquot => (envelopeBlock_attack t n env).trans (if_neg (not_instantaneous hlen hquot)),
      fun hlen hquot => (envelopeBlock_decay t n env).trans (if_neg (not_instantaneous hlen hquot)),
      fun hlen hquot => (envelopeBlock_release t n env).trans (if_neg (not_instantaneous hlen hquot)), rfl, rfl⟩

/-! ### Target offsets (R189, R190), and stages of amplitude zero (R173) -/

theorem fLt_eq_true_iff (x y : F64) :
    fLt x y = true ↔ fMagField x ≤ 2047 * 2 ^ 52 ∧ fMagField y ≤ 2047 * 2 ^ 52 ∧ fKey x < fKey y := by
  simp only [fLt, Bool.and_eq_true, Bool.not_eq_true', fIsNaN_eq_false_iff, decide_eq_true_eq, and_assoc]

/-- The encodings of the finite values above 0.0 are those from the smallest one to MAXFINITE. -/
theorem isPositiveFinite_iff (x : F64) :
    isPositiveFinite x = true ↔ 1 ≤ x.toNat ∧ x.toNat ≤ 0x7FEFFFFFFFFFFFFF := by
  have hmag : fMagField x = x.toNat % 2 ^ 63 := rfl
  have hkey0 : fKey fZero = 0 := by decide
  have hkeyMax : fKey fMaxFinite = 0x7FEFFFFFFFFFFFFF := by decide
  have hmag0 : fMagField fZero = 0 := by decide
  have hmagMax : fMagField fMaxFinite = 0x7FEFFFFFFFFFFFFF := by decide
  rw [isPositiveFinite, Bool.and_eq_true, fLt_eq_true_iff, fLe_eq_true_iff, hkey0, hkeyMax, hmag0, hmagMax, hmag]
  rcases Nat.lt_or_ge x.toNat (2 ^ 63) with hpos | hneg
  · rw [fKey_of_lt hpos]
    omega
  · rw [fKey_of_ge hneg]
    omega

theorem fSign_of_isPositiveFinite {x : F64} (hx : isPositiveFinite x = true) : fSign x = false := by
  rw [isPositiveFinite_iff] at hx
  rw [fSign_eq]
  exact decide_eq_false (by omega)

theorem fIsFinite_of_isPositiveFinite {x : F64} (hx : isPositiveFinite x = true) : fIsFinite x = true := by
  rw [isPositiveFinite_iff] at hx
  rw [fIsFinite_iff, fMagField]
  omega

theorem fMag_pos_of_isPositiveFinite {x : F64} (hx : isPositiveFinite x = true) : 0 < fMag x := by
  have hround := roundMag_fMag (fIsFinite_of_isPositiveFinite hx) Nat.one_pos
  rw [isPositiveFinite_iff] at hx
  refine Nat.pos_of_ne_zero fun hzero => ?_
  have hmag : fMagField x = 0 := by rw [← hround, hzero]; decide
  rw [fMagField] at hmag
  omega

theorem fInt_of_isPositiveFinite {x : F64} (hx : isPositiveFinite x = true) : fInt x = fMag x := by
  rw [fInt, fSign_of_isPositiveFinite hx, if_neg Bool.false_ne_true]

/-- Adding a zero of either sign to a positive value is exact. -/
theorem fAdd_zero_left {z x : F64} (hz : z = fZero ∨ z = fNegZero) (hx : isPositiveFinite x = true) : fAdd z x = x := by
  have hfin := fIsFinite_of_isPositiveFinite hx
  obtain ⟨hzfin, hzval⟩ : fIsFinite z = true ∧ fInt z = 0 := by rcases hz with rfl | rfl <;> decide
  have hpos := fMag_pos_of_isPositiveFinite hx
  have hround : roundMag (fMag x) 1 = fMagField x := by simpa using roundMag_fMag hfin Nat.one_pos
  calc fAdd z x = fPack (decide ((fMag x : Int) < 0)) (roundMag (fMag x : Int).natAbs 1) := by
        rw [fAdd_of_finite hzfin hfin]
        simp only [roundSum, hzval, fInt_of_isPositiveFinite hx, Int.zero_add]
        exact if_neg (by omega)
    _ = fPack (fSign x) (fMagField x) := by
        rw [Int.natAbs_natCast, hround, fSign_of_isPositiveFinite hx, decide_eq_false (by omega)]
    _ = x := fPack_fSign_fMagField x

theorem fDiv_self {x : F64} (hx : isPositiveFinite x = true) : fDiv x x = fOne := by
  have hfin := fIsFinite_of_isPositiveFinite hx
  have hpos := fMag_pos_of_isPositiveFinite hx
  have hval : fInt x ≠ 0 := by rw [fInt_of_isPositiveFinite hx]; omega
  have hone : fMag fOne = 2 ^ 1074 := by decide +kernel
  rw [fDiv_of_finite hfin hfin hval, bne_self_eq_false, ← hone, roundMag_fMag (by decide) hpos]
  decide

theorem stageQuotient_of_amp_zero {t : Template} (hamp : t.amp = fZero ∨ t.amp = fNegZero) {target : F64}
    (htarget : isPositiveFinite target = true) : stageQuotient t target = fOne := by
  rw [stageQuotient, fAdd_zero_left hamp htarget, fDiv_self htarget]

/-- Settles O47: an instantaneous stage is the first branch of its block. -/
theorem instantaneousStagesArePassed : Obligations.InstantaneousStagesArePassed := by
  intro t n env level passed
  have hinst : ∀ d tgt, instantaneous t d tgt = true ↔ passed d tgt := instantaneous_iff t
  have hattack (h : passed t.att t.atgt) : envelopeBlock t n .attack env = envelopeBlock t n .decay t.amp :=
    (envelopeBlock_attack t n env).trans (if_pos ((hinst _ _).2 h))
  have hdecay (h : passed t.dec t.drtgt) (e : F64) : envelopeBlock t n .decay e = level :=
    (envelopeBlock_decay t n e).trans (if_pos ((hinst _ _).2 h))
  refine ⟨hinst, hattack, fun hd => hdecay hd env, fun ha hd => (hattack ha).trans (hdecay hd t.amp), fun hr => ?_,
    fun hamp _ _ htgt => .inr (stageQuotient_of_amp_zero hamp htgt)⟩
  exact (envelopeBlock_release t n env).trans (if_pos ((hinst _ _).2 hr))

/-! ### The order of the stages (R171) -/

/-- The stages a block that starts in a stage can end in. -/
def stagesAfter : Stage → List Stage
  | .attack => [.attack, .decay, .sustain]
  | .decay => [.decay, .sustain]
  | .sustain => [.sustain]
  | .release => [.release, .idle]
  | .idle => [.idle]

theorem envelopeBlock_decay_est (t : Template) (n : Nat) (env : F64) :
    (envelopeBlock t n .decay env).est ∈ stagesAfter .decay := by
  rw [envelopeBlock_decay]
  simp only [decayBlock]
  split
  · simp [stagesAfter]
  · split <;> simp [stagesAfter]

theorem envelopeBlock_est (t : Template) (n : Nat) (est : Stage) (env : F64) :
    (envelopeBlock t n est env).est ∈ stagesAfter est := by
  cases est with
  | attack =>
    rw [envelopeBlock_attack]
    simp only [attackBlock]
    split
    · exact List.mem_cons_of_mem _ (envelopeBlock_decay_est t n t.amp)
    · split <;> simp [stagesAfter]
  | decay => exact envelopeBlock_decay_est t n env
  | sustain => exact List.mem_singleton.2 rfl
  | release =>
    rw [envelopeBlock_release]
    simp only [releaseBlock]
    split
    · simp [stagesAfter]
    · split <;> simp [stagesAfter]
  | idle => exact List.mem_singleton.2 rfl

/-- Settles O48: none of the stages a block can end in comes before the one it starts in. -/
theorem envelopeMovesForward : Obligations.EnvelopeMovesForward := by
  intro t n est env e
  have hmem : e.est ∈ stagesAfter est := envelopeBlock_est t n est env
  have horder : ∀ b ∈ stagesAfter est, (stageCode est).toNat ≤ (stageCode b).toNat ∧
      (b = .release → est = .release) ∧ (b = .idle → est = .release ∨ est = .idle) := by
    cases est <;> decide
  obtain ⟨hcode, hrelease, hidle⟩ := horder _ hmem
  exact ⟨hcode, hrelease, hidle, envelopeBlock_length t n est env⟩

end Sys2Proof.Machine
end

section
/-! SUPPORT. The commands that set a target offset (42_envelope.md R189, R190; 60_exceptions.md R272). -/

namespace Sys2Proof.Machine

theorem exec_setAtarget (j : Slot) (s : State) :
    exec (.setAtarget (slotCode j)) s = finish (.setAtarget (slotCode j)) s
      (operandOffset s >>= fun x => pure (updateTemplate j (fun t => { t with atgt := x }) s)) :=
  finish_bind_ok (slotOperand_code j)

theorem exec_setDrtarget (j : Slot) (s : State) :
    exec (.setDrtarget (slotCode j)) s = finish (.setDrtarget (slotCode j)) s
      (operandOffset s >>= fun x => pure (updateTemplate j (fun t => { t with drtgt := x }) s)) :=
  finish_bind_ok (slotOperand_code j)

/-- Settles O24: the slot is a code, so both commands end as the check of the operand does. -/
theorem targetOffsetCommands : Obligations.TargetOffsetCommands := by
  rintro j s x rfl
  rw [exec_setAtarget, exec_setDrtarget]
  constructor
  · intro h
    have hx : operandOffset s = .ok (operandF64 s) := if_pos ((isPositiveFinite_iff _).2 h)
    exact ⟨finish_bind_ok hx, finish_bind_ok hx⟩
  · intro h
    have hx : operandOffset s = .error .badValue := if_neg fun hpos => by
      have hrange := (isPositiveFinite_iff _).1 hpos
      rw [operandF64] at hrange
      omega
    exact ⟨finish_bind_error hx, finish_bind_error hx⟩

end Sys2Proof.Machine
end

section
/-! SUPPORT. NOTE_OFF (42_envelope.md R181; 44_voice_mixer.md R230): the release trigger, and a change of every slot. -/

namespace Sys2Proof.Machine

/-! ### The release trigger -/

theorem releaseStage_eq (est : Stage) : releaseStage est = if est = .idle then .idle else .release := by
  cases est <;> rfl

theorem releaseVoice_osc_get (v : Voice) (k : Slot) :
    (releaseVoice v).osc.get k = { v.osc.get k with est := releaseStage (v.osc.get k).est } := Quad.get_ofFn _ k

theorem releaseIfNote_of_note_eq {note : Word} {v : Voice} (hvalid : v.valid = true) (hnote : v.note = note) :
    releaseIfNote note v = releaseVoice v := if_pos ⟨hvalid, hnote⟩

theorem releaseIfNote_of_note_ne {note : Word} {v : Voice} (hnote : v.note ≠ note) : releaseIfNote note v = v :=
  if_neg fun h => hnote h.2

/-! ### A change of every voice slot that keeps `valid` -/

theorem FreeSlot.map {vs : List Voice} {i : Nat} (h : FreeSlot vs i) {f : Voice → Voice}
    (hf : ∀ v, (f v).valid = v.valid) : FreeSlot (vs.map f) i := by
  obtain ⟨u, hu, hfree⟩ := h
  exact ⟨f u, by rw [List.getElem?_map, hu, Option.map_some], (hf u).trans hfree⟩

theorem HoldsVoice.map {vs : List Voice} {i : Nat} {v : Voice} (h : HoldsVoice vs i v) {f : Voice → Voice}
    (hf : ∀ v, (f v).valid = v.valid) : HoldsVoice (vs.map f) i (f v) := by
  obtain ⟨hv, hvalid⟩ := h
  exact ⟨by rw [List.getElem?_map, hv, Option.map_some], (hf v).trans hvalid⟩

/-- Settles O52: a voice at the note is released, and every other slot is mapped to itself. -/
theorem noteOffReleasesMatchingVoices : Obligations.NoteOffReleasesMatchingVoices := by
  intro s
  refine ⟨s.voices.map (releaseIfNote s.arg0), rfl, List.length_map .., ?free, ?other, ?atNote⟩
  case free => exact fun i h => h.map (releaseIfNote_valid s.arg0)
  case other =>
    intro i v h hnote
    have := h.map (releaseIfNote_valid s.arg0)
    rwa [releaseIfNote_of_note_ne hnote] at this
  case atNote =>
    intro i v h hnote
    have hheld := h.map (releaseIfNote_valid s.arg0)
    rw [releaseIfNote_of_note_eq h.2 hnote] at hheld
    refine ⟨releaseVoice v, hheld, rfl, fun k => ?_⟩
    rw [releaseVoice_osc_get, releaseStage_eq]

end Sys2Proof.Machine
end

section
/-! SUPPORT. The cycle check is exact (43_routing.md R201, R210): the slots from which a slot is reached through one to `n`
edges grow with `n`, and once they stop growing they never grow again, so four edges are enough for four slots. -/

namespace Sys2Proof.Machine

theorem reaches_succ_iff {ts : Quad Template} {n : Nat} {k j : Slot} :
    reaches ts (n + 1) k j = true ↔ edge ts k j = true ∨ ∃ m, edge ts k m = true ∧ reaches ts n m j = true := by
  simp [reaches]

theorem transGen_of_reaches {ts : Quad Template} {n : Nat} {k j : Slot} (h : reaches ts n k j = true) :
    Relation.TransGen (fun a b => edge ts a b = true) k j := by
  induction n generalizing k with
  | zero => cases h
  | succ n ih =>
    rcases reaches_succ_iff.1 h with hkj | ⟨m, hkm, hm⟩
    · exact .single hkj
    · exact .head hkm (ih hm)

/-! ### The slots from which a slot is reached -/

/-- The slots from which slot `j` is reached through one to `n` edges. -/
def reachers (ts : Quad Template) (j : Slot) (n : Nat) : Finset Slot :=
  Slot.all.toFinset.filter fun k => reaches ts n k j = true

@[simp] theorem mem_reachers {ts : Quad Template} {j k : Slot} {n : Nat} :
    k ∈ reachers ts j n ↔ reaches ts n k j = true := by
  simp [reachers]

theorem card_reachers_le (ts : Quad Template) (j : Slot) (n : Nat) : (reachers ts j n).card ≤ 4 :=
  Finset.card_filter_le Slot.all.toFinset _

theorem reachers_succ_subset_of_subset {ts : Quad Template} {j : Slot} {m n : Nat}
    (h : reachers ts j m ⊆ reachers ts j n) : reachers ts j (m + 1) ⊆ reachers ts j (n + 1) := by
  intro k hk
  rw [mem_reachers, reaches_succ_iff] at hk ⊢
  exact hk.imp_right fun ⟨l, hkl, hl⟩ => ⟨l, hkl, mem_reachers.1 (h (mem_reachers.2 hl))⟩

theorem reachers_mono (ts : Quad Template) (j : Slot) : Monotone (reachers ts j) := by
  refine monotone_nat_of_le_succ fun n => ?_
  induction n with
  | zero => exact fun k hk => by cases mem_reachers.1 hk
  | succ n ih => exact reachers_succ_subset_of_subset ih

theorem reachers_four_eq_five (ts : Quad Template) (j : Slot) : reachers ts j 4 = reachers ts j 5 := by
  have heq {m n : Nat} (hmn : m ≤ n) (hcard : (reachers ts j m).card = (reachers ts j n).card) :
      reachers ts j m = reachers ts j n := Finset.eq_of_subset_of_card_le (reachers_mono ts j hmn) hcard.ge
  have hstable (m : Nat) (h : (reachers ts j m).card = (reachers ts j (m + 1)).card) :
      (reachers ts j (m + 1)).card = (reachers ts j (m + 2)).card := by
    have hle := reachers_succ_subset_of_subset (heq m.le_succ h).ge
    exact (Finset.card_le_card (reachers_mono ts j (m + 1).le_succ)).antisymm (Finset.card_le_card hle)
  refine heq (Nat.le_succ 4) (Nat.stabilises_of_monotone (f := fun n => (reachers ts j n).card) ?_
    (card_reachers_le ts j) hstable (Nat.le_succ 4)).symm
  exact fun m n hmn => Finset.card_le_card (reachers_mono ts j hmn)

theorem reaches_four_of_transGen {ts : Quad Template} {k j : Slot}
    (h : Relation.TransGen (fun a b => edge ts a b = true) k j) : reaches ts 4 k j = true := by
  induction h using Relation.TransGen.head_induction_on with
  | single hkj => exact reaches_succ_iff.2 (.inl hkj)
  | head hkm _ ih =>
    rw [← mem_reachers, reachers_four_eq_five, mem_reachers]
    exact reaches_succ_iff.2 (.inr ⟨_, hkm, ih⟩)

/-- Settles O27: a reachable slot is reached through at most four edges. -/
theorem cycleCheckIsExact : Obligations.CycleCheckIsExact := by
  intro ts
  simp only [cyclic, List.any_eq_true, Slot.mem_all, true_and]
  exact exists_congr fun k => ⟨transGen_of_reaches, reaches_four_of_transGen⟩

/-- The check fails to find a cycle exactly in the routings of R204. -/
theorem cyclic_eq_false_iff {ts : Quad Template} : cyclic ts = false ↔ Acyclic ts := by
  rw [← Bool.not_eq_true, cycleCheckIsExact ts, not_exists, Acyclic]

theorem cyclic_eq_true_iff {ts : Quad Template} : cyclic ts = true ↔ ¬ Acyclic ts := by
  rw [← cyclic_eq_false_iff, Bool.not_eq_false]

/-- A graph without some of the edges of an acyclic one is acyclic. -/
theorem Acyclic.of_edge_imp {ts us : Quad Template} (h : Acyclic us)
    (hedge : ∀ a b, edge ts a b = true → edge us a b = true) : Acyclic ts :=
  fun k hk => h k (Relation.TransGen.mono hedge k k hk)

end Sys2Proof.Machine
end

section
/-! SUPPORT. The commands that change the routing graph (43_routing.md R210 to R213). -/

namespace Sys2Proof.Machine

/-! ### SET_PRESENT and SET_TARGETS end with the cycle check -/

/-- The last check of SET_PRESENT and SET_TARGETS (R210), and the state they leave when it passes. -/
def checkRouting (ts : Quad Template) (s : State) : Except ErrCode State :=
  require (!cyclic ts) .routingCycle >>= fun _ => pure { s with templates := ts }

theorem checkRouting_of_acyclic {ts : Quad Template} (h : Acyclic ts) (s : State) :
    checkRouting ts s = .ok { s with templates := ts } := by
  simp [checkRouting, cyclic_eq_false_iff.2 h]

theorem checkRouting_of_not_acyclic {ts : Quad Template} (h : ¬ Acyclic ts) (s : State) :
    checkRouting ts s = .error .routingCycle := by
  simp [checkRouting, cyclic_eq_true_iff.2 h]

theorem exec_setPresent (j : Slot) (f : Bool) (s : State) :
    exec (.setPresent (slotCode j) (flagCode f)) s = finish (.setPresent (slotCode j) (flagCode f)) s
      (checkRouting (s.templates.set j { s.templates.get j with present := f }) s) :=
  (finish_bind_ok (flagOperand_code f)).trans (finish_bind_ok (slotOperand_code j))

theorem exec_setTargets (j : Slot) (s : State) :
    exec (.setTargets (slotCode j)) s = finish (.setTargets (slotCode j)) s
      (operandMask s >>= fun mask =>
        checkRouting (s.templates.set j { s.templates.get j with targets := mask }) s) :=
  finish_bind_ok (slotOperand_code j)

theorem edge_iff {ts : Quad Template} {a b : Slot} :
    edge ts a b = true ↔
      (ts.get a).present = true ∧ (ts.get b).present = true ∧ (ts.get a).targets.getLsbD b.index = true := by
  simp only [edge, Bool.and_eq_true, and_assoc]

/-- A slot that is present after an absent template is written is another slot. -/
theorem get_set_absent {ts : Quad Template} {j k : Slot} {t : Template} (ht : t.present = false)
    (hk : ((ts.set j t).get k).present = true) : (ts.set j t).get k = ts.get k := by
  refine Quad.get_set_of_ne _ _ fun hkj => ?_
  rw [hkj, Quad.get_set_self, ht] at hk
  cases hk

/-- Removing a slot adds no edge. -/
theorem edge_of_edge_set_absent {ts : Quad Template} {j a b : Slot} {t : Template} (ht : t.present = false)
    (h : edge (ts.set j t) a b = true) : edge ts a b = true := by
  obtain ⟨ha, hb, hab⟩ := edge_iff.1 h
  have hget := get_set_absent ht ha
  rw [hget] at ha hab
  rw [get_set_absent ht hb] at hb
  exact edge_iff.2 ⟨ha, hb, hab⟩

/-- Settles O28: S and K are codes, so the command ends as the cycle check does. -/
theorem setPresentKeepsRoutingAcyclic : Obligations.SetPresentKeepsRoutingAcyclic := by
  intro j f s ts
  rw [exec_setPresent]
  refine ⟨fun h => ?_, fun h => ?_, ?_⟩
  · rw [checkRouting_of_acyclic h, finish_ok]
  · rw [checkRouting_of_not_acyclic h, finish_error]
  · rintro rfl h
    exact h.of_edge_imp fun _ _ => edge_of_edge_set_absent rfl

/-- The mask operand is legal exactly when ARG0 is below 16 (R272). -/
theorem extractLsb'_high_eq_zero_iff (x : Word) : x.extractLsb' 4 28 = 0#28 ↔ x.toNat < 16 := by
  rw [BitVec.toNat_eq, BitVec.extractLsb'_toNat, Nat.shiftRight_eq_div_pow, BitVec.toNat_ofNat]
  omega

theorem operandMask_of_lt {s : State} (h : s.arg0.toNat < 16) : operandMask s = .ok (BitVec.ofNat 4 s.arg0.toNat) :=
  if_pos ((extractLsb'_high_eq_zero_iff _).2 h)

theorem operandMask_of_ge {s : State} (h : 16 ≤ s.arg0.toNat) : operandMask s = .error .badValue :=
  if_neg fun hzero => absurd ((extractLsb'_high_eq_zero_iff _).1 hzero) (Nat.not_lt.2 h)

/-- Settles O29: K is a code, so the mask is checked and then the graph with that mask. -/
theorem setTargetsKeepsRoutingAcyclic : Obligations.SetTargetsKeepsRoutingAcyclic := by
  intro j s ts
  rw [exec_setTargets]
  refine ⟨fun ⟨hmask, h⟩ => ?_, fun ⟨hmask, h⟩ => ?_, fun hmask => finish_bind_error (operandMask_of_ge hmask)⟩
  · rw [finish_bind_ok (operandMask_of_lt hmask), checkRouting_of_acyclic h, finish_ok]
  · rw [finish_bind_ok (operandMask_of_lt hmask), checkRouting_of_not_acyclic h, finish_error]

/-! ### APPLY_PRESET -/

/-- The templates with the masks of a preset (R213). -/
def withTargets (masks : Quad (BitVec 4)) (ts : Quad Template) : Quad Template :=
  Quad.ofFn fun k => { ts.get k with targets := masks.get k }

theorem withTargets_get (masks : Quad (BitVec 4)) (ts : Quad Template) (k : Slot) :
    (withTargets masks ts).get k = { ts.get k with targets := masks.get k } := Quad.get_ofFn _ k

theorem exec_applyPreset {sub : BitVec 4} {masks : Quad (BitVec 4)} (h : presetOperand sub = .ok masks) (s : State) :
    exec (.applyPreset sub) s = .next { s with templates := withTargets masks s.templates } := finish_bind_ok h

theorem acyclic_withTargets {sub : BitVec 4} {masks : Quad (BitVec 4)} (h : presetOperand sub = .ok masks)
    (ts : Quad Template) : Acyclic (withTargets masks ts) := cyclic_eq_false_iff.1 (cyclic_preset h ts)

/-- Settles O30: S names the masks, whose edges lead to later slots. -/
theorem presetsWriteAcyclicMasks : Obligations.PresetsWriteAcyclicMasks := by
  intro s sub masks h
  have hmasks : presetOperand sub = .ok masks := by
    rcases h with ⟨rfl, rfl⟩ | ⟨rfl, rfl⟩ | ⟨rfl, rfl⟩ | ⟨rfl, rfl⟩ <;> rfl
  exact ⟨withTargets masks s.templates, exec_applyPreset hmasks s, acyclic_withTargets hmasks s.templates,
    withTargets_get masks s.templates⟩

end Sys2Proof.Machine
end

section
/-! SUPPORT. The chains of the presets with all slots present (43_routing.md R209): every mask bit is an edge, so carriers and
parents are read off the masks. -/

namespace Sys2Proof.Machine

/-! ### Carriers and parents of a preset -/

/-- The slots whose mask is empty, in increasing slot order. -/
def maskCarriers (masks : Quad (BitVec 4)) : List Slot :=
  Slot.all.filter fun k => Slot.all.all fun j => !(masks.get k).getLsbD j.index

/-- The slots whose mask holds slot `k`, in increasing slot order. -/
def maskParents (masks : Quad (BitVec 4)) (k : Slot) : List Slot :=
  Slot.all.filter fun p => (masks.get p).getLsbD k.index

theorem edge_withTargets {ts : Quad Template} (hp : ∀ k, (ts.get k).present = true) (masks : Quad (BitVec 4))
    (k j : Slot) : edge (withTargets masks ts) k j = (masks.get k).getLsbD j.index := by
  simp [edge, withTargets_get, hp]

theorem carriers_withTargets {ts : Quad Template} (hp : ∀ k, (ts.get k).present = true) (masks : Quad (BitVec 4)) :
    carriers (withTargets masks ts) = maskCarriers masks := by
  simp only [carriers, maskCarriers, edge_withTargets hp, withTargets_get, hp, Bool.true_and]

theorem parents_withTargets {ts : Quad Template} (hp : ∀ k, (ts.get k).present = true) (masks : Quad (BitVec 4))
    (k : Slot) : parents (withTargets masks ts) k = maskParents masks k := by
  simp only [parents, maskParents, edge_withTargets hp]

/-! ### Node outputs by the list of parents (R205, R206) -/

theorem slotNode_of_parents_nil {ts : Quad Template} {k : Slot} (h : parents ts k = []) (o : Quad SlotOut) :
    slotNode ts o k = (o.get k).sample := nodeOutput_of_no_parents h o 4

theorem slotNode_of_parents_cons {ts : Quad Template} (hts : Acyclic ts) {k p : Slot} {ps : List Slot}
    (h : parents ts k = p :: ps) (o : Quad SlotOut) :
    slotNode ts o k = fmBlock (o.get k) (modulator ((p :: ps).map (slotNode ts o))) := by
  rw [← h]
  exact (nodeOutputsFollowTheGraph ts o k hts).2 (h ▸ List.cons_ne_nil p ps)

/-- The modulator of a slot with one parent is that parent's node output (R144). -/
theorem slotNode_of_parents_singleton {ts : Quad Template} (hts : Acyclic ts) {k p : Slot} (h : parents ts k = [p])
    (o : Quad SlotOut) : slotNode ts o k = fmBlock (o.get k) (slotNode ts o p) := slotNode_of_parents_cons hts h o

/-- What an accepted preset leaves: an acyclic routing whose carriers and parents its masks name. -/
theorem routing_of_exec_applyPreset {s t : State} (hp : ∀ k, (s.templates.get k).present = true) {sub : BitVec 4}
    {masks : Quad (BitVec 4)} (hmasks : presetOperand sub = .ok masks) (h : exec (.applyPreset sub) s = .next t) :
    Acyclic t.templates ∧ carriers t.templates = maskCarriers masks ∧
      ∀ k, parents t.templates k = maskParents masks k := by
  rw [exec_applyPreset hmasks, Host.Outcome.next.injEq] at h
  subst h
  exact ⟨acyclic_withTargets hmasks s.templates, carriers_withTargets hp masks, parents_withTargets hp masks⟩

/-- Settles O32: each preset's carriers and parents, then the node outputs from the first slot of a chain to its last. -/
theorem presetStructures : Obligations.PresetStructures := by
  intro s t o hp
  refine ⟨fun h => ?stack, fun h => ?parallel, fun h => ?square, fun h => ?threeToOne⟩
  case stack =>
    obtain ⟨hts, hcarriers, hparents⟩ := routing_of_exec_applyPreset hp rfl h
    refine ⟨hcarriers, ?_⟩
    rw [slotNode_of_parents_singleton hts (hparents .D), slotNode_of_parents_singleton hts (hparents .C),
      slotNode_of_parents_singleton hts (hparents .B), slotNode_of_parents_nil (hparents .A)]
    rfl
  case parallel =>
    obtain ⟨-, hcarriers, hparents⟩ := routing_of_exec_applyPreset hp rfl h
    refine ⟨hcarriers, fun k => slotNode_of_parents_nil ((hparents k).trans ?_) o⟩
    cases k <;> rfl
  case square =>
    obtain ⟨hts, hcarriers, hparents⟩ := routing_of_exec_applyPreset hp rfl h
    refine ⟨hcarriers, ?_, ?_⟩
    · rw [slotNode_of_parents_singleton hts (hparents .B), slotNode_of_parents_nil (hparents .A)]
      rfl
    · rw [slotNode_of_parents_singleton hts (hparents .D), slotNode_of_parents_nil (hparents .C)]
      rfl
  case threeToOne =>
    obtain ⟨hts, hcarriers, hparents⟩ := routing_of_exec_applyPreset hp rfl h
    have hD : parents t.templates .D = [.A, .B, .C] := hparents .D
    refine ⟨hcarriers, ?_⟩
    rw [slotNode_of_parents_cons hts hD, List.map_cons, List.map_cons, List.map_singleton,
      slotNode_of_parents_nil (hparents .A), slotNode_of_parents_nil (hparents .B),
      slotNode_of_parents_nil (hparents .C)]
    rfl

end Sys2Proof.Machine
end

section
/-! SUPPORT. The output block of a voice (43_routing.md R207; 44_voice_mixer.md R226, R233, R235). -/

namespace Sys2Proof.Machine

theorem routedOutput_of_no_carriers {ts : Quad Template} (h : carriers ts = []) (outs : Quad SlotOut) (n : Nat) :
    routedOutput ts outs n = List.replicate n fZero := by
  simp only [routedOutput, h]

theorem routedOutput_of_carriers {ts : Quad Template} (h : carriers ts ≠ []) (outs : Quad SlotOut) (n : Nat) :
    routedOutput ts outs n = sumFilter ((carriers ts).map (slotNode ts outs)) := by
  obtain ⟨c, cs, hcs⟩ := List.exists_cons_of_ne_nil h
  simp only [routedOutput, hcs]

/-- Settles O34: the pipeline is the model's own, and the routed output has a case without a carrier and one with. -/
theorem voiceOutputPipeline : Obligations.VoiceOutputPipeline := by
  intro s v n osc am out vr
  have hout : (voiceBlock s v).1 = fadeNode s.build.fadeLen v.fade (out (routedOutput s.templates osc n)).1 := rfl
  have hmemory : (voiceBlock s v).2.z = (out (routedOutput s.templates osc n)).2 := rfl
  rw [hout, hmemory]
  refine ⟨fun h => ?_, fun h => ?_⟩
  · rw [routedOutput_of_no_carriers h]
    exact ⟨rfl, rfl⟩
  · rw [routedOutput_of_carriers h]
    exact ⟨rfl, rfl⟩

end Sys2Proof.Machine
end

section
/-! SUPPORT. SET_MAXV and NOTE_ON (44_voice_mixer.md R227 to R229, R242): the slot a new voice takes, what eviction does to
every slot, and how many voices it leaves. -/

namespace Sys2Proof.Machine

/-- Settles O21: the command has one check, and MAXV is the low byte of an operand that passes it. -/
theorem setMaxvChecksItsRange : Obligations.SetMaxvChecksItsRange := by
  intro s _
  refine ⟨fun h => ?_, fun h => finish_bind_error ?_⟩
  · rw [BitVec.ofNat_toNat]
    exact finish_bind_ok (a := ()) (require_eq_ok.2 (decide_eq_true h))
  · rw [decide_eq_false (by unfold operandU32; omega), require_false]

/-! ### One voice slot -/

theorem freeSlot_congr {vs ws : List Voice} {i : Nat} (h : ws[i]? = vs[i]?) : FreeSlot ws i ↔ FreeSlot vs i := by
  rw [FreeSlot, FreeSlot, h]

theorem holdsVoice_congr {vs ws : List Voice} {i : Nat} (h : ws[i]? = vs[i]?) (v : Voice) :
    HoldsVoice ws i v ↔ HoldsVoice vs i v := by
  rw [HoldsVoice, HoldsVoice, h]

theorem HoldsVoice.mem {vs : List Voice} {i : Nat} {v : Voice} (h : HoldsVoice vs i v) : v ∈ validVoices vs :=
  mem_validVoices.2 ⟨List.mem_of_getElem? h.1, h.2⟩

theorem FreeSlot.not_holdsVoice {vs : List Voice} {i : Nat} (h : FreeSlot vs i) (v : Voice) : ¬ HoldsVoice vs i v := by
  rintro ⟨hv, hvalid⟩
  obtain ⟨u, hu, hfree⟩ := h
  cases hu.symm.trans hv
  exact Bool.false_ne_true (hfree.symm.trans hvalid)

theorem HoldsVoice.unique {vs : List Voice} {i : Nat} {u v : Voice} (hu : HoldsVoice vs i u) (hv : HoldsVoice vs i v) :
    u = v :=
  Option.some.inj (hu.1.symm.trans hv.1)

/-! ### The slot of a new voice (R227) -/

/-- `ws` is the table `vs` with `v` in slot `i`, the lowest-numbered free one. -/
structure PlacedAt (v : Voice) (vs ws : List Voice) (i : Nat) : Prop where
  free : FreeSlot vs i
  below : ∀ j < i, ∃ u, HoldsVoice vs j u
  holds : HoldsVoice ws i v
  other : ∀ j ≠ i, ws[j]? = vs[j]?

theorem exists_placedAt {v : Voice} (hv : v.valid = true) {vs ws : List Voice} (h : placeVoice v vs = some ws) :
    ∃ i, PlacedAt v vs ws i := by
  obtain ⟨i, ⟨u, hu, hfree⟩, hbelow, rfl⟩ := placeVoice_eq_some h
  have hi : i < vs.length := (List.getElem?_eq_some_iff.1 hu).1
  exact ⟨i, ⟨u, hu, hfree⟩, hbelow, ⟨List.getElem?_set_self hi, hv⟩, fun j hj => List.getElem?_set_ne hj.symm⟩

theorem newVoice_osc_get (s : State) (k : Slot) :
    (newVoice s).osc.get k = ⟨0#32, .attack, fZero, noiseSeedFor s.noiseSeed s.vseq k.index⟩ :=
  Quad.get_ofFn _ k

theorem vseq_ne_end {s : State} (h : s.vseq.toNat ≠ 2 ^ 64 - 1) : s.vseq ≠ 0xFFFFFFFFFFFFFFFF#64 :=
  fun hq => h (congrArg BitVec.toNat hq)

/-! ### Below the limit nothing is evicted -/

theorem evictWhileFull_of_lt {maxv : Nat} {vs : List Voice} (h : voiceCount vs < maxv) (fuel : Nat) :
    evictWhileFull maxv fuel vs = vs := by
  cases fuel with
  | zero => rfl
  | succ fuel => rw [evictWhileFull, if_neg (Nat.not_le.2 h)]

/-- Settles O49: nothing is evicted, so the slots are those of the table before, but for the lowest free one. -/
theorem noteOnTakesLowestFreeSlot : Obligations.NoteOnTakesLowestFreeSlot := by
  intro s hend hcount hmaxv
  obtain ⟨vs, hvs⟩ : ∃ vs, placeVoice (newVoice s) s.voices = some vs :=
    Option.isSome_iff_exists.1 (placeVoice_isSome.2 (exists_free (hcount.trans_le hmaxv)))
  obtain ⟨i, hi⟩ := exists_placedAt (newVoice_valid s) hvs
  have hexec := exec_noteOn_placed (vseq_ne_end hend) ((evictWhileFull_of_lt hcount s.voices.length).symm ▸ hvs)
  exact ⟨vs, i, newVoice s, hexec, length_of_placeVoice hvs, hi.free, hi.below, hi.holds, rfl, rfl, rfl, rfl, rfl, rfl,
    newVoice_osc_get s, fun j hj => (freeSlot_congr (hi.other j hj)).2,
    fun j hj u => (holdsVoice_congr (hi.other j hj) u).2⟩

/-! ### Eviction, slot by slot (R227, R228) -/

/-- `ws` is the table `vs` after some evictions: free slots stay free, no voice joins or changes, and a voice that left is
older than every voice that is still there. -/
structure OldestEvicted (vs ws : List Voice) : Prop where
  free : ∀ i, FreeSlot vs i → FreeSlot ws i
  stayed : ∀ i v, HoldsVoice ws i v → HoldsVoice vs i v
  older : ∀ i u j w, HoldsVoice vs i u → ¬ HoldsVoice ws i u → HoldsVoice ws j w → u.seq.toNat < w.seq.toNat

theorem OldestEvicted.refl (vs : List Voice) : OldestEvicted vs vs :=
  ⟨fun _ h => h, fun _ _ h => h, fun _ _ _ _ hu hnot _ => absurd hu hnot⟩

/-- A voice that left left in the one part or in the other. -/
theorem OldestEvicted.trans {us vs ws : List Voice} (h : OldestEvicted us vs) (h' : OldestEvicted vs ws) :
    OldestEvicted us ws := by
  refine ⟨fun i hi => h'.free i (h.free i hi), fun i v hv => h.stayed i v (h'.stayed i v hv), ?_⟩
  intro i u j w hu hnot hw
  by_cases hmid : HoldsVoice vs i u
  · exact h'.older i u j w hmid hnot hw
  · exact h.older i u j w hu hmid (h'.stayed j w hw)

/-- Dropping a sequence number that is there takes one voice with that number out of the valid ones. -/
theorem validVoices_dropSeq_perm {q : BitVec 64} {vs : List Voice} (h : ∃ v ∈ validVoices vs, v.seq = q) :
    ∃ v, v.seq = q ∧ (validVoices vs).Perm (v :: validVoices (dropSeq q vs)) := by
  induction vs with
  | nil => simp at h
  | cons v rest ih =>
    by_cases hv : v.valid = true ∧ v.seq = q
    · rw [dropSeq, if_pos hv, validVoices_cons, validVoices_cons, if_pos hv.1, invalidate_valid, if_neg Bool.false_ne_true]
      exact ⟨v, hv.2, .refl _⟩
    · have hrest : ∃ u ∈ validVoices rest, u.seq = q := by
        obtain ⟨u, hu, hseq⟩ := h
        obtain ⟨hmem, hvalid⟩ := mem_validVoices.1 hu
        rcases List.mem_cons.1 hmem with rfl | hmem
        · exact absurd ⟨hvalid, hseq⟩ hv
        · exact ⟨u, mem_validVoices.2 ⟨hmem, hvalid⟩, hseq⟩
      obtain ⟨u, hseq, hperm⟩ := ih hrest
      refine ⟨u, hseq, ?_⟩
      rw [dropSeq, if_neg hv, validVoices_cons, validVoices_cons]
      split
      · exact (hperm.cons v).trans (.swap u v _)
      · exact hperm

/-- Where sequence numbers are distinct, no voice with a dropped number is left. -/
theorem seq_ne_of_mem_dropSeq {q : BitVec 64} {vs : List Voice} (hdistinct : ((validVoices vs).map (·.seq)).Nodup)
    (h : ∃ v ∈ validVoices vs, v.seq = q) {w : Voice} (hw : w ∈ validVoices (dropSeq q vs)) : w.seq ≠ q := by
  obtain ⟨v, rfl, hperm⟩ := validVoices_dropSeq_perm h
  have hnot := (List.nodup_cons.1 ((hperm.map (·.seq)).nodup_iff.1 hdistinct)).1
  exact fun hseq => hnot (List.mem_map.2 ⟨w, hw, hseq⟩)

theorem FreeSlot.dropSeq {vs : List Voice} {i : Nat} (h : FreeSlot vs i) (q : BitVec 64) :
    FreeSlot (dropSeq q vs) i := by
  rcases dropSeq_get (q := q) (vs := vs) i with hsame | ⟨u, -, -, -, hgone⟩
  · exact (freeSlot_congr hsame).2 h
  · exact ⟨_, hgone, invalidate_valid u⟩

theorem holdsVoice_of_dropSeq {q : BitVec 64} {vs : List Voice} {i : Nat} {v : Voice}
    (h : HoldsVoice (dropSeq q vs) i v) : HoldsVoice vs i v := by
  rcases dropSeq_get (q := q) (vs := vs) i with hsame | ⟨u, -, -, -, hgone⟩
  · exact (holdsVoice_congr hsame v).1 h
  · exact absurd h (FreeSlot.not_holdsVoice ⟨_, hgone, invalidate_valid u⟩ v)

theorem seq_eq_of_not_holdsVoice_dropSeq {q : BitVec 64} {vs : List Voice} {i : Nat} {v : Voice} (h : HoldsVoice vs i v)
    (hgone : ¬ HoldsVoice (dropSeq q vs) i v) : v.seq = q := by
  rcases dropSeq_get (q := q) (vs := vs) i with hsame | ⟨u, hu, hvalid, hseq, -⟩
  · exact absurd ((holdsVoice_congr hsame v).2 h) hgone
  · rwa [h.unique ⟨hu, hvalid⟩]

/-- A round of eviction: the voice that leaves has the smallest number, and no other voice has it. -/
theorem oldestEvicted_evictOldest {vs : List Voice} (hdistinct : ((validVoices vs).map (·.seq)).Nodup) :
    OldestEvicted vs (evictOldest vs) := by
  unfold evictOldest
  split
  · exact .refl vs
  · rename_i q hq
    obtain ⟨hthere, hleast⟩ := oldestSeq_eq_some hq
    refine ⟨fun i hi => hi.dropSeq q, fun i v => holdsVoice_of_dropSeq, fun i u j w hu hgone hw => ?_⟩
    have hle := hleast w (holdsVoice_of_dropSeq hw).mem
    have hne : w.seq.toNat ≠ q.toNat :=
      fun heq => seq_ne_of_mem_dropSeq hdistinct hthere hw.mem (BitVec.eq_of_toNat_eq heq)
    rw [seq_eq_of_not_holdsVoice_dropSeq hu hgone]
    omega

theorem oldestEvicted_evictWhileFull (maxv fuel : Nat) {vs : List Voice}
    (hdistinct : ((validVoices vs).map (·.seq)).Nodup) : OldestEvicted vs (evictWhileFull maxv fuel vs) := by
  induction fuel generalizing vs with
  | zero => exact .refl vs
  | succ fuel ih =>
    rw [evictWhileFull]
    split
    · exact (oldestEvicted_evictOldest hdistinct).trans
        (ih (hdistinct.sublist ((validVoices_evictOldest_sublist vs).map _)))
    · exact .refl vs

/-- Eviction stops at MAXV - 1 voices (R227). -/
theorem le_voiceCount_evictWhileFull {maxv : Nat} (hmaxv : 1 ≤ maxv) (fuel : Nat) {vs : List Voice}
    (h : maxv ≤ voiceCount vs + 1) : maxv ≤ voiceCount (evictWhileFull maxv fuel vs) + 1 := by
  induction fuel generalizing vs with
  | zero => exact h
  | succ fuel ih =>
    rw [evictWhileFull]
    split
    · have := voiceCount_evictOldest (vs := vs) (by omega)
      exact ih (by omega)
    · exact h

/-- Eviction from a table with MAXV or more voices leaves room for the new voice and no more. -/
theorem voiceCount_evictWhileFull {maxv fuel : Nat} {vs : List Voice} (hmaxv : 1 ≤ maxv) (hfuel : voiceCount vs ≤ fuel)
    (h : maxv ≤ voiceCount vs) : voiceCount (evictWhileFull maxv fuel vs) + 1 = maxv := by
  have hlt := voiceCount_evictWhileFull_lt hmaxv hfuel
  have hle := le_voiceCount_evictWhileFull hmaxv fuel (h.trans (Nat.le_succ _))
  omega

theorem voiceCount_placeVoice {v : Voice} (hv : v.valid = true) {vs ws : List Voice} (h : placeVoice v vs = some ws) :
    voiceCount ws = voiceCount vs + 1 :=
  (validVoices_placeVoice_perm hv h).length_eq

/-- A new voice takes a slot that is free after the evictions, so placing it puts out no voice that stayed. -/
theorem OldestEvicted.older_of_placedAt {vs es ws : List Voice} {v : Voice} {i : Nat} (hevict : OldestEvicted vs es)
    (hi : PlacedAt v es ws i) (hnew : ¬ HoldsVoice vs i v) {j k : Nat} {u w : Voice} (hu : HoldsVoice vs j u)
    (hgone : ¬ HoldsVoice ws j u) (hw : HoldsVoice vs k w) (hstays : HoldsVoice ws k w) :
    u.seq.toNat < w.seq.toNat := by
  have hevicted : ¬ HoldsVoice es j u := by
    intro hheld
    have hji : j ≠ i := fun h => hi.free.not_holdsVoice u (h ▸ hheld)
    exact hgone ((holdsVoice_congr (hi.other j hji) u).2 hheld)
  have hki : k ≠ i := by
    rintro rfl
    exact hnew (hstays.unique hi.holds ▸ hw)
  exact hevict.older j u k w hu hevicted ((holdsVoice_congr (hi.other k hki) w).1 hstays)

/-- Settles O50: the evictions, then the new voice in the lowest slot free after them; its number is VSEQ, so it was in no
slot before. -/
theorem noteOnEvictsOldestFirst : Obligations.NoteOnEvictsOldestFirst := by
  intro s hs hend hcount
  obtain ⟨hsizes, -, -, hvoices, hdistinct⟩ := hs
  obtain ⟨vs, hvs⟩ := exists_placeVoice_evicted hsizes (newVoice s)
  obtain ⟨i, hi⟩ := exists_placedAt (newVoice_valid s) hvs
  obtain ⟨-, -, -, hmaxv, -⟩ := hsizes
  have hevict := oldestEvicted_evictWhileFull s.maxv.toNat s.voices.length hdistinct
  have hvoiceCount := (voiceCount_placeVoice (newVoice_valid s) hvs).trans
    (voiceCount_evictWhileFull hmaxv (voiceCount_le_length s.voices) hcount)
  have hnew : ¬ HoldsVoice s.voices i (newVoice s) := by
    intro h
    obtain ⟨-, hlt⟩ := hvoices _ h.mem
    exact Nat.lt_irrefl _ hlt
  refine ⟨vs, i, newVoice s, exec_noteOn_placed (vseq_ne_end hend) hvs,
    (length_of_placeVoice hvs).trans (evictWhileFull_length ..), hvoiceCount, hi.holds, rfl, rfl, rfl, rfl, rfl, rfl,
    newVoice_osc_get s, ?below, ?free, ?stayed, ?older⟩
  case below =>
    intro j hj
    obtain ⟨u, hu⟩ := hi.below j hj
    exact ⟨u, (holdsVoice_congr (hi.other j hj.ne) u).2 hu⟩
  case free => exact fun j hj h => (freeSlot_congr (hi.other j hj)).2 (hevict.free j h)
  case stayed => exact fun j hj u hu => hevict.stayed j u ((holdsVoice_congr (hi.other j hj) u).1 hu)
  case older => exact fun _ _ _ _ => hevict.older_of_placedAt hi hnew

/-- Settles O51: from a legal state a voice finds a place after eviction, so only the end of VSEQ is left. -/
theorem noteOnStopsOnlyAtVseqEnd : Obligations.NoteOnStopsOnlyAtVseqEnd := by
  refine ⟨fun s hend => exec_noteOn_vseqEnd (BitVec.eq_of_toNat_eq hend), fun s hs hend => ?_⟩
  obtain ⟨hsizes, -⟩ := hs
  obtain ⟨vs, hvs⟩ := exists_placeVoice_evicted hsizes (newVoice s)
  have hsucc : (s.vseq + 1#64).toNat = s.vseq.toNat + 1 := by bv_omega
  exact ⟨_, exec_noteOn_placed (vseq_ne_end hend) hvs, hsucc⟩

end Sys2Proof.Machine
end

section
/-! SUPPORT. PULL (44_voice_mixer.md R231, R237 to R241): a voice slot after the block, and the mix of the members, oldest
first. -/

namespace Sys2Proof.Machine

/-! ### A voice slot after the block -/

theorem pulledSlot_of_idle {s : State} {v : Voice} (hv : v.valid = true)
    (h : ∀ c ∈ carriers s.templates, ((voiceBlock s v).2.osc.get c).est = .idle) :
    pulledSlot s v = invalidate (voiceBlock s v).2 := by
  have hidle : voiceIdle s.templates (voiceBlock s v).2 = true := List.all_eq_true.2 fun c hc => beq_iff_eq.2 (h c hc)
  rw [pulledSlot, if_pos hv, pruneIdle, if_pos hidle]

theorem pulledSlot_of_sounding {s : State} {v : Voice} (hv : v.valid = true)
    (h : ∃ c ∈ carriers s.templates, ((voiceBlock s v).2.osc.get c).est ≠ .idle) :
    pulledSlot s v = (voiceBlock s v).2 := by
  obtain ⟨c, hc, hsounds⟩ := h
  have hidle : ¬ voiceIdle s.templates (voiceBlock s v).2 = true :=
    fun hall => hsounds (beq_iff_eq.1 (List.all_eq_true.1 hall c hc))
  rw [pulledSlot, if_pos hv, pruneIdle, if_neg hidle]

theorem pulledVoices_getElem? {s : State} {i : Nat} {v : Voice} (h : s.voices[i]? = some v) :
    (pulledVoices s)[i]? = some (pulledSlot s v) := by
  rw [pulledVoices, List.getElem?_map, h, Option.map_some]

/-- Settles O53: an acyclic routing passes the check, and each slot goes to its own slot after the block. -/
theorem pullCompletes : Obligations.PullCompletes := by
  intro s hacyclic
  refine ⟨pulledOut s, pulledVoices s, exec_pull_acyclic (cyclic_eq_false_iff.2 hacyclic), pulledOut_length s,
    List.length_map _, ?free, ?held⟩
  case free =>
    rintro i ⟨u, hu, hfree⟩
    exact ⟨u, pulledSlot_of_invalid (s := s) hfree ▸ pulledVoices_getElem? hu, hfree⟩
  case held =>
    rintro i v ⟨hv, hvalid⟩
    have hget := pulledVoices_getElem? hv
    refine ⟨fun hidle => ?_, fun hsounds => ?_⟩
    · rw [pulledSlot_of_idle hvalid hidle] at hget
      exact ⟨_, hget, invalidate_valid _⟩
    · rw [pulledSlot_of_sounding hvalid hsounds] at hget
      exact ⟨hget, hvalid⟩

/-! ### The mix of the members (R237, R241) -/

theorem out_of_exec_pull {s t : State} (h : exec .pull s = .next t) : t.out = pulledOut s := by
  cases hc : cyclic s.templates with
  | true => cases (exec_pull_cyclic hc).symm.trans h
  | false =>
    cases (exec_pull_acyclic hc).symm.trans h
    rfl

/-- Sorting finds the one order in which the sequence numbers ascend. -/
theorem sortMembers_eq_of_perm {rs ms : List (Block × Voice)} (hperm : ms.Perm rs)
    (hms : ms.Pairwise fun p q => p.2.seq.toNat < q.2.seq.toNat) : sortMembers rs = ms := by
  have hsorted : (sortMembers rs).Perm ms := (List.perm_insertionSort _ rs).trans hperm.symm
  have hne : (sortMembers rs).Pairwise fun p q => p.2.seq.toNat ≠ q.2.seq.toNat :=
    (hsorted.pairwise_iff Ne.symm).2 (hms.imp Nat.ne_of_lt)
  have hle : (sortMembers rs).Pairwise fun p q => p.2.seq.toNat ≤ q.2.seq.toNat := by
    have : Std.Total fun p q : Block × Voice => p.2.seq.toNat ≤ q.2.seq.toNat := ⟨fun _ _ => Nat.le_total _ _⟩
    have : IsTrans (Block × Voice) fun p q => p.2.seq.toNat ≤ q.2.seq.toNat := ⟨fun _ _ _ => Nat.le_trans⟩
    exact List.pairwise_insertionSort _ rs
  have hlt : (sortMembers rs).Pairwise fun p q => p.2.seq.toNat < q.2.seq.toNat :=
    hle.imp₂ (fun _ _ => Nat.lt_of_le_of_ne) hne
  exact hsorted.eq_of_pairwise (fun _ _ _ _ hpq hqp => absurd hpq (Nat.lt_asymm hqp)) hlt hms

/-- The voices of a table in ascending sequence number are mixed in that order. -/
theorem pulledOut_of_ascending {s : State} {v : Voice} {vs : List Voice} (hperm : (v :: vs).Perm (validVoices s.voices))
    (hasc : (v :: vs).Pairwise fun a b => a.seq.toNat < b.seq.toNat) :
    pulledOut s = sumFilter ((voiceBlock s v).1 :: vs.map fun u => (voiceBlock s u).1) := by
  have hsorted : sortMembers (memberResults s) = (v :: vs).map (voiceBlock s) :=
    sortMembers_eq_of_perm (hperm.map _) (List.pairwise_map.2 hasc)
  rw [pulledOut, hsorted, List.map_map]
  rfl

/-- Settles O54: with members OUT is the sum filter of their blocks, which are all as long as OUT. -/
theorem pullMixesMembers : Obligations.PullMixesMembers := by
  intro s t h
  rw [out_of_exec_pull h]
  refine ⟨fun hnone => ?_, fun v vs i hperm hasc hi => ?_⟩
  · rw [pulledOut, memberResults, hnone]
    rfl
  · have hlen : ∀ b ∈ vs.map fun u => (voiceBlock s u).1, b.length = (voiceBlock s v).1.length :=
      List.forall_mem_map.2 fun u _ => (voiceBlock_length s u).trans (voiceBlock_length s v).symm
    rw [pulledOut_of_ascending hperm hasc, sumFilterSamples _ _ i ((voiceBlock_length s v).symm ▸ hi) hlen,
      List.length_map, List.foldl_map]

end Sys2Proof.Machine
end

section
/-! SUPPORT. The system commands and the reset input (45_system.md R257 to R261; 70_reset_and_hazards.md R296, R297). -/

namespace Sys2Proof.Machine

/-! ### What each command and the reset input do -/

theorem exec_nop (s : State) : exec .nop s = .next s := rfl

theorem exec_clearErr (s : State) : exec .clearErr s = .next (clearErrors s) := rfl

theorem exec_softReset (s : State) : exec .softReset s = .next (resetBlock s) := rfl

theorem exec_setSeed (s : State) : exec .setSeed s = .next { s with noiseSeed := s.arg0 } := rfl

theorem exec_setIrqEn_code (f : Bool) (s : State) : exec (.setIrqEn (flagCode f)) s = .next { s with irqEn := f } :=
  finish_bind_ok (flagOperand_code f)

theorem exec_setIrqEn_bad {sub : BitVec 4} (hsub : 2 ≤ sub.toNat) (s : State) :
    exec (.setIrqEn sub) s = .next (raiseError .reservedField (encode (.setIrqEn sub)) s) :=
  finish_bind_error (flagOperand_bad sub hsub)

/-- The reset input leaves the reset state of the build, whose answer is already `quiet` (R297). -/
theorem busEvent_rst (s : State) : busEvent .rst s = .next { State.resetFor s.build with bus := s.bus } := rfl

/-! ### The statements -/

/-- Settles O19: only SET_IRQ_EN has a check, and its S is a flag's code or is rejected. -/
theorem systemCommandsComplete : Obligations.SystemCommandsComplete :=
  fun s => ⟨exec_nop s, exec_clearErr s, exec_setSeed s, fun f => exec_setIrqEn_code f s,
    fun _ hsub => exec_setIrqEn_bad hsub s⟩

/-- Settles O20: SOFT_RESET has no check, and a step on the reset input serves that event alone. -/
theorem bothResetsGiveTheResetState : Obligations.BothResetsGiveTheResetState :=
  fun s _ => ⟨exec_softReset s, fun hbus => (step_of_bus hbus).trans (busEvent_rst _)⟩

end Sys2Proof.Machine
end

section
/-! SUPPORT. The error procedure and the commands that can raise each error (60_exceptions.md R271 to R275, R278). -/

namespace Sys2Proof.Machine

/-! ### The error procedure -/

theorem raiseError_of_err {s : State} (h : s.err = true) (c : ErrCode) (w : Word) :
    raiseError c w s = { s with errOvf := true } := if_pos h

theorem raiseError_of_not_err {s : State} (h : s.err = false) (c : ErrCode) (w : Word) :
    raiseError c w s = { s with err := true, errCode := errorNumber c, errCmd := w } := if_neg (by simp [h])

/-- Settles O16: the procedure turns on ERR alone. -/
theorem errorProcedure : Obligations.ErrorProcedure := by
  refine fun c w s => ⟨fun h => ?_, fun h => raiseError_of_err h c w⟩
  rw [raiseError_of_not_err h]
  cases c <;> rfl

/-! ### Accepted commands and the error registers -/

/-- `t` has the error registers of `s`. -/
def SameErrors (s t : State) : Prop :=
  t.err = s.err ∧ t.errOvf = s.errOvf ∧ t.errCode = s.errCode ∧ t.errCmd = s.errCmd

/-- CLEAR_ERR and SOFT_RESET are the accepted commands that write an error register (R277, R297). -/
theorem Accepted.sameErrors {i : Instr} {s t : State} (h : Accepted i s t) (hclear : i ≠ .clearErr)
    (hreset : i ≠ .softReset) : SameErrors s t := by
  cases h
  case clearErr => exact absurd rfl hclear
  case softReset => exact absurd rfl hreset
  all_goals exact ⟨rfl, rfl, rfl, rfl⟩

/-- Settles O17: a command is accepted or ends by the error procedure with its own word. -/
theorem rejectedCommandsHaveNoOtherEffect : Obligations.RejectedCommandsHaveNoOtherEffect :=
  fun _ _ _ h hclear hreset => (exec_next h).symm.imp_left fun ha => ha.sameErrors hclear hreset

/-! ### The error of each check -/

/-- The check `x` passes or fails with `c`. -/
def FailsWith {α : Type} (c : ErrCode) (x : Except ErrCode α) : Prop := ∀ e, x = .error e → e = c

@[simp] theorem failsWith_ok {α : Type} (c : ErrCode) (a : α) : FailsWith c (.ok a) := nofun

@[simp] theorem failsWith_error {α : Type} (c : ErrCode) : FailsWith c (.error c : Except ErrCode α) :=
  fun _ h => (Except.error.inj h).symm

theorem failsWith_ite {α : Type} (p : Prop) [Decidable p] (c : ErrCode) (a : α) :
    FailsWith c (if p then .ok a else .error c) := by
  split <;> simp

theorem slotOperand_failsWith (k : BitVec 4) : FailsWith .badSlot (slotOperand k) := by
  unfold slotOperand
  split <;> simp

theorem waveOperand_failsWith (sub : BitVec 4) : FailsWith .reservedField (waveOperand sub) := by
  unfold waveOperand
  split <;> simp

theorem flagOperand_failsWith (sub : BitVec 4) : FailsWith .reservedField (flagOperand sub) := by
  unfold flagOperand
  split <;> simp

theorem filterOperand_failsWith (sub : BitVec 4) : FailsWith .reservedField (filterOperand sub) := by
  unfold filterOperand
  split <;> simp

theorem presetOperand_failsWith (sub : BitVec 4) : FailsWith .reservedField (presetOperand sub) := by
  unfold presetOperand
  split <;> simp

theorem operandUnit_failsWith (s : State) : FailsWith .badValue (operandUnit s) := failsWith_ite _ _ _

theorem operandOffset_failsWith (s : State) : FailsWith .badValue (operandOffset s) := failsWith_ite _ _ _

theorem operandMask_failsWith (s : State) : FailsWith .badValue (operandMask s) := failsWith_ite _ _ _

theorem require_failsWith (ok : Bool) (c : ErrCode) : FailsWith c (require ok c) := failsWith_ite _ _ _

/-! ### The errors of a run of checks -/

/-- R272: whether a decoded command with these OP and S is listed for an error. -/
def listedFor (op : Byte) (sub : BitVec 4) : ErrCode → Bool
  | .illegalOpcode => false
  | .reservedField => decide (1 < opSubValues op.toNat)
  | .badSlot => opTakesSlot op.toNat
  | .badValue => decide (op.toNat ∈ [0x13, 0x1A, 0x33, 0x1C, 0x1D, 0x17, 0x38, 0x04])
  | .routingCycle => op == 0x17#8 || sub == 1#4 && op == 0x16#8

/-- A command's checks from `s` fail only with codes in `p`; when they pass, the new state has ERR set only if `s` has. -/
def RaisesOnly (p : ErrCode → Bool) (s : State) : Except ErrCode State → Prop
  | .ok t => t.err = true → s.err = true
  | .error c => p c = true

theorem RaisesOnly.bind {α : Type} {p : ErrCode → Bool} {s : State} {c : ErrCode} {x : Except ErrCode α}
    {f : α → Except ErrCode State} (hx : FailsWith c x) (hc : p c = true)
    (hf : ∀ a, x = .ok a → RaisesOnly p s (f a)) : RaisesOnly p s (x >>= f) := by
  cases x with
  | ok a => exact hf a rfl
  | error e => exact hx e rfl ▸ hc

theorem raisesOnly_checkRouting {p : ErrCode → Bool} {ts : Quad Template} (h : ¬ Acyclic ts → p .routingCycle = true)
    (s : State) : RaisesOnly p s (checkRouting ts s) := by
  by_cases hts : Acyclic ts
  · rw [checkRouting_of_acyclic hts]
    exact id
  · rw [checkRouting_of_not_acyclic hts]
    exact h hts

theorem eq_one_of_flagOperand_true : ∀ sub : BitVec 4, flagOperand sub = .ok true → sub = 1#4 := by decide

/-- SET_PRESENT closes a cycle only when it puts a slot in (R211). -/
theorem raisesOnly_setPresent {s : State} (hacyclic : Acyclic s.templates) (j : Slot) {sub : BitVec 4} {f : Bool}
    (hf : flagOperand sub = .ok f) : RaisesOnly (listedFor 0x16#8 sub) s
      (checkRouting (s.templates.set j { s.templates.get j with present := f }) s) := by
  refine raisesOnly_checkRouting (fun hcycle => ?_) s
  cases f
  case false => exact absurd ((setPresentKeepsRoutingAcyclic j false s).2.2 rfl hacyclic) hcycle
  case true =>
    obtain rfl := eq_one_of_flagOperand_true sub hf
    rfl

theorem err_of_exec_noteOn {s t : State} (h : exec .noteOn s = .next t) : t.err = s.err := by
  by_cases hq : s.vseq = 0xFFFFFFFFFFFFFFFF#64
  · cases (exec_noteOn_vseqEnd hq).symm.trans h
  cases hplace : placeVoice (newVoice s) (evictWhileFull s.maxv.toNat s.voices.length s.voices) with
  | none => cases (exec_noteOn_noFree hq hplace).symm.trans h
  | some vs =>
    cases (exec_noteOn_placed hq hplace).symm.trans h
    rfl

theorem err_of_exec_pull {s t : State} (h : exec .pull s = .next t) : t.err = s.err := by
  cases hc : cyclic s.templates
  · cases (exec_pull_acyclic hc).symm.trans h
    rfl
  · cases (exec_pull_cyclic hc).symm.trans h

/-- A next state of a command is the end of its checks, and their errors are those the rule lists for it (R272). -/
theorem exists_checks_of_exec_next {i : Instr} {s t : State} (hacyclic : Acyclic s.templates) (h : exec i s = .next t) :
    ∃ r, finish i s r = .next t ∧ RaisesOnly (listedFor (opField (encode i)) (sField (encode i))) s r := by
  cases i <;> simp only [encode, opField_commandWord, sField_commandWord]
  case nop | setSeed | setAmFreq | noteOff =>
    cases h
    exact ⟨.ok _, rfl, id⟩
  case clearErr | softReset =>
    cases h
    exact ⟨.ok _, rfl, nofun⟩
  case noteOn => exact ⟨.ok t, rfl, fun ht => err_of_exec_noteOn h ▸ ht⟩
  case pull => exact ⟨.ok t, rfl, fun ht => err_of_exec_pull h ▸ ht⟩
  case setIrqEn | setAmEnable => exact ⟨_, h, .bind (flagOperand_failsWith _) rfl fun _ _ => id⟩
  case setAmWave => exact ⟨_, h, .bind (waveOperand_failsWith _) rfl fun _ _ => id⟩
  case applyPreset => exact ⟨_, h, .bind (presetOperand_failsWith _) rfl fun _ _ => id⟩
  case setFreq | setRatio | setAttack | setDecay | setRelease =>
    exact ⟨_, h, .bind (slotOperand_failsWith _) rfl fun _ _ => id⟩
  case setFixed | setDisabled =>
    exact ⟨_, h, .bind (flagOperand_failsWith _) rfl fun _ _ => .bind (slotOperand_failsWith _) rfl fun _ _ => id⟩
  case setWave =>
    exact ⟨_, h, .bind (waveOperand_failsWith _) rfl fun _ _ => .bind (slotOperand_failsWith _) rfl fun _ _ => id⟩
  case setAmp | setSustain =>
    exact ⟨_, h, .bind (slotOperand_failsWith _) rfl fun _ _ => .bind (operandUnit_failsWith s) rfl fun _ _ => id⟩
  case setAtarget | setDrtarget =>
    exact ⟨_, h, .bind (slotOperand_failsWith _) rfl fun _ _ => .bind (operandOffset_failsWith s) rfl fun _ _ => id⟩
  case setAmAmp => exact ⟨_, h, .bind (operandUnit_failsWith s) rfl fun _ _ => id⟩
  case setMaxv => exact ⟨_, h, .bind (require_failsWith _ _) rfl fun _ _ => id⟩
  case setPass =>
    exact ⟨_, h, .bind (filterOperand_failsWith _) rfl fun _ _ => .bind (require_failsWith _ _) rfl fun _ _ => id⟩
  case setPresent =>
    exact ⟨_, h, .bind (flagOperand_failsWith _) rfl fun _ hf => .bind (slotOperand_failsWith _) rfl fun j _ =>
      raisesOnly_setPresent hacyclic j hf⟩
  case setTargets =>
    exact ⟨_, h, .bind (slotOperand_failsWith _) rfl fun _ _ => .bind (operandMask_failsWith s) rfl fun _ _ =>
      raisesOnly_checkRouting (fun _ => rfl) s⟩

/-- A decoded command that sets ERR ends by the error procedure, with an error it is listed for. -/
theorem exists_listed_of_exec_next {i : Instr} {s t : State} (hacyclic : Acyclic s.templates) (hs : s.err = false)
    (h : exec i s = .next t) (ht : t.err = true) :
    ∃ c, t = raiseError c (encode i) s ∧ listedFor (opField (encode i)) (sField (encode i)) c = true := by
  obtain ⟨r, hr, hraises⟩ := exists_checks_of_exec_next hacyclic h
  rcases finish_next hr with rfl | ⟨c, rfl, rfl⟩
  · cases hs.symm.trans (hraises ht)
  · exact ⟨c, rfl, hraises⟩

theorem mod_div_eq_sField_toNat (w : Word) : w.toNat % 65536 / 4096 = (sField w).toNat := by
  rw [sField_toNat]
  omega

/-- Settles O18: the error of a decoded command comes from one of its checks. -/
theorem raisedErrorsAreListed : Obligations.RaisedErrorsAreListed := by
  unfold Obligations.RaisedErrorsAreListed
  simp only [← opField_toNat, mod_div_eq_sField_toNat]
  intro i s t hacyclic hs h ht
  obtain ⟨c, rfl, hc⟩ := exists_listed_of_exec_next hacyclic hs h ht
  rw [raiseError_of_not_err hs]
  cases c
  case illegalOpcode => cases hc
  case reservedField => exact .inl ⟨rfl, of_decide_eq_true hc⟩
  case badSlot => exact .inr (.inl ⟨rfl, hc⟩)
  case badValue => exact .inr (.inr (.inl ⟨rfl, of_decide_eq_true hc⟩))
  case routingCycle =>
    refine .inr (.inr (.inr ⟨rfl, ?_⟩))
    simpa [listedFor, BitVec.toNat_eq] using hc

end Sys2Proof.Machine
end
